-- ==== Sys2Proof/Word.lean ====
section
/-! DEFINITION. The widths of the machine's values (spec 00 R7, R10; 10 section 1). All values are unsigned. -/

namespace Sys2Proof

/-- One memory byte, general register or timer (8 bits). -/
abbrev Byte := BitVec 8

/-- An instruction word, `I`, `pc`, or a stack entry (16 bits). -/
abbrev Word := BitVec 16

/-- A 4-bit slice of an instruction word (30 R71); also the row count `n` of `DRW`. -/
abbrev Nibble := BitVec 4

/-- The 12-bit immediate `nnn` (30 R71). -/
abbrev Addr := BitVec 12

/-- The number of a general register, 0 to 15 (10 R20); also the number of a key. -/
abbrev RegIdx := Fin 16

/-- The flag register `VF` is general register 15 (10 R24). -/
abbrev flagReg : RegIdx := 15

end Sys2Proof
end

