-- ==== Sys2Proof/Syntax.lean ====
section
/-! DEFINITION. The instructions: one constructor per row of spec/opcode_table.json (30 R78), with the operands that
the row's word encodes. The ignored low nibble of `5xy?` and `9xy?` (30 R83) is no operand. `Unknown(word)` is not an
instruction (48 R191); it is an outcome of the decoder. -/

namespace Sys2Proof

/-- The 35 instructions of 30 R78, in the table's order. -/
inductive Instr where
  /-- `SYS addr`, `0nnn` (48 R190). -/
  | sys (nnn : Addr)
  /-- `CLS`, `00E0` (45 R165). -/
  | cls
  /-- `RET`, `00EE` (41 R122). -/
  | ret
  /-- `JP addr`, `1nnn` (41 R120). -/
  | jp (nnn : Addr)
  /-- `CALL addr`, `2nnn` (41 R121). -/
  | call (nnn : Addr)
  /-- `SE Vx, byte`, `3xkk` (42 R130). -/
  | seVxByte (x : RegIdx) (kk : Byte)
  /-- `SNE Vx, byte`, `4xkk` (42 R131). -/
  | sneVxByte (x : RegIdx) (kk : Byte)
  /-- `SE Vx, Vy`, `5xy?` (42 R132). -/
  | seVxVy (x y : RegIdx)
  /-- `LD Vx, byte`, `6xkk` (44 R150). -/
  | ldVxByte (x : RegIdx) (kk : Byte)
  /-- `ADD Vx, byte`, `7xkk` (44 R151). -/
  | addVxByte (x : RegIdx) (kk : Byte)
  /-- `LD Vx, Vy`, `8xy0` (43 R141). -/
  | ldVxVy (x y : RegIdx)
  /-- `OR Vx, Vy`, `8xy1` (43 R142). -/
  | orVxVy (x y : RegIdx)
  /-- `AND Vx, Vy`, `8xy2` (43 R143). -/
  | andVxVy (x y : RegIdx)
  /-- `XOR Vx, Vy`, `8xy3` (43 R144). -/
  | xorVxVy (x y : RegIdx)
  /-- `ADD Vx, Vy`, `8xy4` (43 R145). -/
  | addVxVy (x y : RegIdx)
  /-- `SUB Vx, Vy`, `8xy5` (43 R146). -/
  | subVxVy (x y : RegIdx)
  /-- `SHR Vx {, Vy}`, `8xy6` (43 R148). -/
  | shrVxVy (x y : RegIdx)
  /-- `SUBN Vx, Vy`, `8xy7` (43 R147). -/
  | subnVxVy (x y : RegIdx)
  /-- `SHL Vx {, Vy}`, `8xyE` (43 R149). -/
  | shlVxVy (x y : RegIdx)
  /-- `SNE Vx, Vy`, `9xy?` (42 R133). -/
  | sneVxVy (x y : RegIdx)
  /-- `LD I, addr`, `Annn` (44 R152). -/
  | ldIAddr (nnn : Addr)
  /-- `JP V0, addr`, `Bnnn` (41 R123). -/
  | jpV0Addr (nnn : Addr)
  /-- `RND Vx, byte`, `Cxkk` (44 R154). -/
  | rndVxByte (x : RegIdx) (kk : Byte)
  /-- `DRW Vx, Vy, n`, `Dxyn` (45 R161). -/
  | drw (x y : RegIdx) (n : Nibble)
  /-- `SKP Vx`, `Ex9E` (42 R134). -/
  | skp (x : RegIdx)
  /-- `SKNP Vx`, `ExA1` (42 R135). -/
  | sknp (x : RegIdx)
  /-- `LD Vx, DT`, `Fx07` (47 R180). -/
  | ldVxDt (x : RegIdx)
  /-- `LD Vx, K`, `Fx0A` (47 R183). -/
  | ldVxK (x : RegIdx)
  /-- `LD DT, Vx`, `Fx15` (47 R181). -/
  | ldDtVx (x : RegIdx)
  /-- `LD ST, Vx`, `Fx18` (47 R182). -/
  | ldStVx (x : RegIdx)
  /-- `ADD I, Vx`, `Fx1E` (44 R153). -/
  | addIVx (x : RegIdx)
  /-- `LD F, Vx`, `Fx29` (46 R173). -/
  | ldFVx (x : RegIdx)
  /-- `LD B, Vx`, `Fx33` (46 R170). -/
  | ldBVx (x : RegIdx)
  /-- `LD [I], Vx`, `Fx55` (46 R171). -/
  | ldMemVx (x : RegIdx)
  /-- `LD Vx, [I]`, `Fx65` (46 R172). -/
  | ldVxMem (x : RegIdx)
  deriving DecidableEq, Repr

end Sys2Proof
end

