-- ==== Sys2Proof/Decode.lean ====
section
/-! DEFINITION. The decoder (30 R71, R75 to R86) and, after it, the encoder, both written from the patterns of 30 R78. -/

namespace Sys2Proof

/-- What decoding gives: an instruction, or the report that the word matches none (30 R75). -/
inductive Operation where
  /-- One of the 35 instructions. -/
  | instr (i : Instr)
  /-- `Unknown(word)`: the word is rejected by name; executing it is a reported no-op (48 R191). -/
  | unknown (word : Word)
  deriving DecidableEq, Repr

/-! ### Fields (30 R71) -/

/-- `op = word[15:12]`. -/
def fieldOp (w : Word) : Nibble := w.extractLsb' 12 4

/-- `x = word[11:8]`, a register number. -/
def fieldX (w : Word) : RegIdx := (w.extractLsb' 8 4).toFin

/-- `y = word[7:4]`, a register number. -/
def fieldY (w : Word) : RegIdx := (w.extractLsb' 4 4).toFin

/-- `n = word[3:0]`. -/
def fieldN (w : Word) : Nibble := w.extractLsb' 0 4

/-- `kk = word[7:0]`. -/
def fieldKK (w : Word) : Byte := w.extractLsb' 0 8

/-- `nnn = word[11:0]`. -/
def fieldNNN (w : Word) : Addr := w.extractLsb' 0 12

/-! ### The dispatch tree -/

/-- Branch 0: the whole word selects (30 R79). -/
def decodeBranch0 (w : Word) : Operation :=
  if w = 0x00E0#16 then .instr .cls
  else if w = 0x00EE#16 then .instr .ret
  else .instr (.sys (fieldNNN w))

/-- Branch 8: the low nibble selects (30 R80). -/
def decodeBranch8 (w : Word) : Operation :=
  match (fieldN w).toNat with
  | 0x0 => .instr (.ldVxVy (fieldX w) (fieldY w))
  | 0x1 => .instr (.orVxVy (fieldX w) (fieldY w))
  | 0x2 => .instr (.andVxVy (fieldX w) (fieldY w))
  | 0x3 => .instr (.xorVxVy (fieldX w) (fieldY w))
  | 0x4 => .instr (.addVxVy (fieldX w) (fieldY w))
  | 0x5 => .instr (.subVxVy (fieldX w) (fieldY w))
  | 0x6 => .instr (.shrVxVy (fieldX w) (fieldY w))
  | 0x7 => .instr (.subnVxVy (fieldX w) (fieldY w))
  | 0xE => .instr (.shlVxVy (fieldX w) (fieldY w))
  | _ => .unknown w

/-- Branch E: the low byte selects (30 R81). -/
def decodeBranchE (w : Word) : Operation :=
  match (fieldKK w).toNat with
  | 0x9E => .instr (.skp (fieldX w))
  | 0xA1 => .instr (.sknp (fieldX w))
  | _ => .unknown w

/-- Branch F: the low byte selects (30 R82). -/
def decodeBranchF (w : Word) : Operation :=
  match (fieldKK w).toNat with
  | 0x07 => .instr (.ldVxDt (fieldX w))
  | 0x0A => .instr (.ldVxK (fieldX w))
  | 0x15 => .instr (.ldDtVx (fieldX w))
  | 0x18 => .instr (.ldStVx (fieldX w))
  | 0x1E => .instr (.addIVx (fieldX w))
  | 0x29 => .instr (.ldFVx (fieldX w))
  | 0x33 => .instr (.ldBVx (fieldX w))
  | 0x55 => .instr (.ldMemVx (fieldX w))
  | 0x65 => .instr (.ldVxMem (fieldX w))
  | _ => .unknown w

/-- `decode(word)`: the top nibble selects a branch (30 R75, R77). The low nibble of branches 5 and 9 is ignored (R83). -/
def decode (w : Word) : Operation :=
  match (fieldOp w).toNat with
  | 0x0 => decodeBranch0 w
  | 0x1 => .instr (.jp (fieldNNN w))
  | 0x2 => .instr (.call (fieldNNN w))
  | 0x3 => .instr (.seVxByte (fieldX w) (fieldKK w))
  | 0x4 => .instr (.sneVxByte (fieldX w) (fieldKK w))
  | 0x5 => .instr (.seVxVy (fieldX w) (fieldY w))
  | 0x6 => .instr (.ldVxByte (fieldX w) (fieldKK w))
  | 0x7 => .instr (.addVxByte (fieldX w) (fieldKK w))
  | 0x8 => decodeBranch8 w
  | 0x9 => .instr (.sneVxVy (fieldX w) (fieldY w))
  | 0xA => .instr (.ldIAddr (fieldNNN w))
  | 0xB => .instr (.jpV0Addr (fieldNNN w))
  | 0xC => .instr (.rndVxByte (fieldX w) (fieldKK w))
  | 0xD => .instr (.drw (fieldX w) (fieldY w) (fieldN w))
  | 0xE => decodeBranchE w
  | _ => decodeBranchF w

/-! ### Bytes (20 R57: big-endian) -/

/-- The word of two bytes in memory order: the first is bits 15 to 8. -/
def wordOfBytes (hi lo : Byte) : Word := hi ++ lo

/-- The two bytes of a word in memory order. -/
def bytesOfWord (w : Word) : List Byte := [w.extractLsb' 8 8, w.extractLsb' 0 8]

/-- Decode the instruction at the head of a byte sequence and give the bytes after it. `none` says that fewer than two
bytes are there: every instruction is one 16-bit word (30 R70). -/
def decodeBytes : List Byte → Option (Operation × List Byte)
  | hi :: lo :: rest => some (decode (wordOfBytes hi lo), rest)
  | _ => none

/-! ### The encoder -/

/-- The four bits that name a register. -/
def regNibble (x : RegIdx) : Nibble := BitVec.ofFin x

/-- Format `NNN`: `Onnn` (30 R72). -/
def wordNNN (op : Nibble) (nnn : Addr) : Word := op ++ nnn

/-- Format `XKK`: `Oxkk`; also `XS` with the selector in place of `kk` (30 R72). -/
def wordXKK (op : Nibble) (x : RegIdx) (kk : Byte) : Word := op ++ regNibble x ++ kk

/-- Formats `XY`, `XYS`, `XYN`: `Oxy.` with the low nibble given (30 R72). -/
def wordXYN (op : Nibble) (x y : RegIdx) (n : Nibble) : Word := op ++ regNibble x ++ regNibble y ++ n

/-- The word of an instruction, by the pattern column of 30 R78. The ignored nibble of `5xy?` and `9xy?` is written 0,
as an assembler does (R83). -/
def encode : Instr → Word
  | .sys nnn => wordNNN 0x0 nnn
  | .cls => 0x00E0
  | .ret => 0x00EE
  | .jp nnn => wordNNN 0x1 nnn
  | .call nnn => wordNNN 0x2 nnn
  | .seVxByte x kk => wordXKK 0x3 x kk
  | .sneVxByte x kk => wordXKK 0x4 x kk
  | .seVxVy x y => wordXYN 0x5 x y 0x0
  | .ldVxByte x kk => wordXKK 0x6 x kk
  | .addVxByte x kk => wordXKK 0x7 x kk
  | .ldVxVy x y => wordXYN 0x8 x y 0x0
  | .orVxVy x y => wordXYN 0x8 x y 0x1
  | .andVxVy x y => wordXYN 0x8 x y 0x2
  | .xorVxVy x y => wordXYN 0x8 x y 0x3
  | .addVxVy x y => wordXYN 0x8 x y 0x4
  | .subVxVy x y => wordXYN 0x8 x y 0x5
  | .shrVxVy x y => wordXYN 0x8 x y 0x6
  | .subnVxVy x y => wordXYN 0x8 x y 0x7
  | .shlVxVy x y => wordXYN 0x8 x y 0xE
  | .sneVxVy x y => wordXYN 0x9 x y 0x0
  | .ldIAddr nnn => wordNNN 0xA nnn
  | .jpV0Addr nnn => wordNNN 0xB nnn
  | .rndVxByte x kk => wordXKK 0xC x kk
  | .drw x y n => wordXYN 0xD x y n
  | .skp x => wordXKK 0xE x 0x9E
  | .sknp x => wordXKK 0xE x 0xA1
  | .ldVxDt x => wordXKK 0xF x 0x07
  | .ldVxK x => wordXKK 0xF x 0x0A
  | .ldDtVx x => wordXKK 0xF x 0x15
  | .ldStVx x => wordXKK 0xF x 0x18
  | .addIVx x => wordXKK 0xF x 0x1E
  | .ldFVx x => wordXKK 0xF x 0x29
  | .ldBVx x => wordXKK 0xF x 0x33
  | .ldMemVx x => wordXKK 0xF x 0x55
  | .ldVxMem x => wordXKK 0xF x 0x65

/-! ### The opcode table's own numbering -/

/-- The bytes, in memory order, of the instruction whose bits the opcode table numbers `w`: one 16-bit word, every bit
from `nbits` up being 0. -/
def tableBytes (nbits w : Nat) : List Byte := bytesOfWord (BitVec.ofNat 16 (w % 2 ^ nbits))

/-- The instruction this decoder reads from the bits `w` of an opcode-table row; `none` where it refuses. -/
def decodeTableWord (nbits w : Nat) : Option Instr :=
  match decodeBytes (tableBytes nbits w) with
  | some (.instr i, _) => some i
  | some (.unknown _, _) => none
  | none => none

end Sys2Proof
end

