-- ==== Sys2Proof/Config.lean ====
section
/-! DEFINITION. The implementation parameters of 00 R6 (fixed for one machine, 10 R43), and the values the spec leaves
free. The parameters' default values are in Machine/Parameters.lean. -/

namespace Sys2Proof

/-- The parameters of 00 R6. -/
structure Config where
  /-- `FB_W`, the framebuffer's width in pixels. -/
  fbW : Nat
  /-- `FB_H`, the framebuffer's height in pixels. -/
  fbH : Nat
  /-- `QUIRK_SHIFT_VY`: the shifts read `V[y]` (43 R148, R149). -/
  quirkShiftVy : Bool
  /-- `QUIRK_FLAT_WRAP`: sprite coordinates wrap as one flat index (45 R160). -/
  quirkFlatWrap : Bool
  /-- `FONT`, the 16 digit sprites of 5 bytes (10 R41). -/
  font : Vector Byte 80
  deriving DecidableEq, Repr

/-- The bounds 00 R6 puts on the parameters: `FB_W` and `FB_H` are at least 1. -/
def Config.wf (c : Config) : Bool := decide (1 ≤ c.fbW) && decide (1 ≤ c.fbH)

/-- FREE VALUE (log 2): the random bytes that arrive from outside the core, one for each `RND` executed (44 R155, D23).
Nothing is known of any of them. -/
opaque Config.randomByte : Nat → Byte

/-- FREE VALUE (log 11): the 16-bit `info` of `ProgramTooLarge` for an image whose length does not fit 16 bits, which
60 R200 does not state. -/
opaque Config.longImageInfo : Nat → Word

end Sys2Proof
end

