-- ==== Sys2Proof/Machine/State.lean ====
section
/-! DEFINITION. The machine's state (spec 10), the reasons a step can stop (60 section 1), and the state after reset
(70 R240). -/

namespace Sys2Proof.Machine

/-- Memory as a list of cells, addresses strictly rising, holding only the cells that differ from their reset content
(`Memory.wf` in Machine/Ops.lean; log 5). -/
abbrev Memory := List Host.Cell

/-- The whole state (10 section 1), with the machine's parameters (log 1) and the model's own `rndIndex` (log 2). -/
structure State where
  /-- The parameters of 00 R6; no step and no host operation changes them (10 R43, 70 R242). -/
  cfg : Config
  /-- `V[0..15]` (10 R20); `V[15]` is `VF` (R24). -/
  v : Vector Byte 16
  /-- The index register `I` (10 R31). -/
  i : Word
  /-- The program counter (10 R27). -/
  pc : Word
  /-- The call stack (10 R32). -/
  stack : Vector Word 16
  /-- The stack pointer, 0 to 16: how many return addresses are on the stack (10 R33). -/
  sp : Fin 17
  /-- The delay timer `DT` (10 R34). -/
  dt : Byte
  /-- The sound timer `ST` (10 R34). -/
  st : Byte
  /-- `mem[0..4095]` (10 R35). -/
  mem : Memory
  /-- The framebuffer, row-major: pixel `(px, py)` is cell `py * FB_W + px` (10 R36). -/
  fb : List Bool
  /-- The draw-occurred flag `draw_flag` (10 R37). -/
  drawFlag : Bool
  /-- The keypad `K`; bit `j` is key `j`, 1 is down (10 R38, 60 R223). -/
  keys : BitVec 16
  /-- The key-wait sub-state (10 R39). -/
  waiting : Bool
  /-- The keypad snapshot of the key wait's previous execution (10 R40). -/
  kprev : BitVec 16
  /-- The model's own: the index of the next random byte to arrive (log 2). -/
  rndIndex : Nat
  deriving DecidableEq, Repr

/-- The errors a step can return (60 R200, R207). Each carries the `info` of 60 R200. An error changes no state
(60 R205); the machine repeats it at every further step until the host intervenes (60 R206), so the run stops here.
All three are SAFE (log 3): they are the spec's own errors. -/
inductive Fault where
  /-- `OutOfBounds` (60 R201): raised by the fetch, `DRW`, `LD B`, `LD [I], Vx`, `LD Vx, [I]`; `info` is the lowest
  offending address. Safe. -/
  | outOfBounds (info : Word)
  /-- `StackOverflow` (60 R202): raised by `CALL` with 16 return addresses stacked; `info` is the address of the `CALL`
  word. Safe. -/
  | stackOverflow (info : Word)
  /-- `StackUnderflow` (60 R203): raised by `RET` on an empty stack; `info` is the address of the `RET` word. Safe. -/
  | stackUnderflow (info : Word)
  deriving DecidableEq, Repr

/-- Reasons to answer with no meaning. Every instruction has its meaning, so no step of this model refuses. -/
inductive Refusal where
  /-- Raised by an arm of `exec` whose instruction has no meaning yet; no arm does. Safe: the model stops. -/
  | notModelled (mnemonic : String)
  deriving DecidableEq, Repr

/-- What a meaning answers. -/
abbrev Result := Host.Outcome State Fault Refusal

/-- The reset state of a machine with parameters `c` (70 R240), the next random byte being number `k`. Memory lists
nothing: every byte holds its reset content. -/
def State.resetWith (c : Config) (k : Nat) : State where
  cfg := c
  v := Vector.replicate 16 0
  i := 0
  pc := 0x200
  stack := Vector.replicate 16 0
  sp := 0
  dt := 0
  st := 0
  mem := []
  fb := List.replicate (c.fbW * c.fbH) false
  drawFlag := false
  keys := 0
  waiting := false
  kprev := 0
  rndIndex := k

/-- The machine right after reset, with the default parameters (70 R240, R241; 00 R6). -/
def State.reset : State := State.resetWith standardConfig 0

end Sys2Proof.Machine
end

