-- ==== Sys2Proof/Machine/Ops.lean ====
section
/-! DEFINITION. The named operations over memory, the program counter, the call stack, errors, the fetch and the timer
tick (spec 20, 40, 60). -/

namespace Sys2Proof.Machine

/-! ### Memory cells (10 R35, R41; 20 R50, R52) -/

/-- What `mem[a]` holds after reset: the font at `0x050` to `0x09F`, 0 elsewhere (10 R35). An address that memory does
not list reads as this. -/
def resetByte (c : Config) (a : Nat) : Byte :=
  if h : 0x050 ≤ a ∧ a < 0x0A0 then c.font[a - 0x050]'(by omega) else 0

/-- The byte listed for an address. -/
def memLookup : Memory → Nat → Option Byte
  | [], _ => none
  | (b, w) :: m, a => if b = a then some w else memLookup m a

/-- List a byte for an address, keeping the addresses rising. -/
def memPut : Memory → Nat → Byte → Memory
  | [], a, v => [(a, v)]
  | (b, w) :: m, a, v =>
    if a < b then (a, v) :: (b, w) :: m
    else if b = a then (a, v) :: m
    else (b, w) :: memPut m a v

/-- Unlist an address. -/
def memDrop : Memory → Nat → Memory
  | [], _ => []
  | (b, w) :: m, a => if b = a then memDrop m a else (b, w) :: memDrop m a

/-- The byte memory holds at `a`. -/
def memCell (c : Config) (m : Memory) (a : Nat) : Byte := (memLookup m a).getD (resetByte c a)

/-- Memory with byte `v` at `a`, in canonical form: writing the reset content unlists the cell. No address above
`0xFFF` names a byte (20 R50), so nothing is stored there; the machine's own accesses fault before (log 14). -/
def memStore (c : Config) (m : Memory) (a : Nat) (v : Byte) : Memory :=
  if 4096 ≤ a then m
  else if v = resetByte c a then memDrop m a
  else memPut m a v

/-- The canonical form: addresses strictly rising, all within 0 to 4095, no entry equal to the reset content. -/
abbrev Memory.wf (c : Config) (m : Memory) : Prop :=
  m.Pairwise (fun p q => p.1 < q.1) ∧ ∀ p ∈ m, p.1 < 4096 ∧ p.2 ≠ resetByte c p.1

/-- `mem[a]`. -/
def byteAt (s : State) (a : Nat) : Byte := memCell s.cfg s.mem a

/-- `mem[a] <- v`. -/
def setByte (s : State) (a : Nat) (v : Byte) : State := { s with mem := memStore s.cfg s.mem a v }

/-! ### Errors (60 R205, R206): the machine's whole trap entry

An error goes nowhere inside the machine: no vector, no saved register, no mode. The step answers the error and changes
no state, so a meaning that raises one answers a fault alone. There is no return from an error (60 R206, R212). -/

/-- `raise E(info)`. -/
def raise (f : Fault) : Result := .fault f

/-! ### The access primitives (20 R54 to R56) -/

/-- `OutOfBounds` with the 16-bit `info` of an address (60 R201). -/
def outOfBoundsAt (a : Nat) : Fault := .outOfBounds (BitVec.ofNat 16 a)

/-- `MemRead(a, 1)` (20 R54). -/
def memRead (s : State) (a : Nat) : Except Fault Byte :=
  if a ≤ 4095 then .ok (byteAt s a) else .error (outOfBoundsAt a)

/-- `MemWrite(a, 1, v)` (20 R55). -/
def memWrite (s : State) (a : Nat) (v : Byte) : Except Fault State :=
  if a ≤ 4095 then .ok (setByte s a v) else .error (outOfBoundsAt a)

/-- The range check of 20 R56, made before any access: `k` bytes from `base`, all within 0 to 4095, or
`OutOfBounds(max(base, 4096))`. -/
def withRun (base k : Nat) (body : Result) : Result :=
  if 1 ≤ k ∧ 4095 < base + k - 1 then raise (outOfBoundsAt (max base 4096)) else body

/-- The `k` bytes from `base`, ascending (20 R58). -/
def bytesAt (s : State) (base k : Nat) : List Byte := (List.range k).map fun j => byteAt s (base + j)

/-- Store bytes from `base`, ascending (20 R58). -/
def storeBytes (s : State) (base : Nat) : List Byte → State
  | [] => s
  | b :: bs => storeBytes (setByte s base b) (base + 1) bs

/-! ### Program counter (10 R27; 40 R102) -/

/-- `pc <- target`. -/
def jumpTo (s : State) (target : Word) : State := { s with pc := target }

/-- `pc <- (pc + 2) mod 65536`. -/
def advancePc (s : State) : State := { s with pc := s.pc + 2 }

/-- A skip: `pc` moves 2 further when the condition holds (spec 42). -/
def skipIf (s : State) (cond : Bool) : State := if cond then advancePc s else s

/-- The address of the instruction word being executed, from the post-fetch `pc` (41 R121, R122). -/
def currentAddr (s : State) : Word := s.pc - 2

/-! ### Call stack (10 R32, R33) -/

/-- `stack[sp] <- pc; sp <- sp + 1`. -/
def pushReturn (s : State) (h : s.sp.val < 16) : State :=
  { s with stack := s.stack.set s.sp.val s.pc h, sp := ⟨s.sp.val + 1, by omega⟩ }

/-- `sp <- sp - 1; pc <- stack[sp]`; the entry stays in place (10 R33). -/
def popReturn (s : State) (h : 0 < s.sp.val) : State :=
  { s with pc := s.stack[s.sp.val - 1]'(by omega), sp := ⟨s.sp.val - 1, by omega⟩ }

/-! ### The phases of a step around execution (40 R100 to R110) -/

/-- Fetch: two `MemRead`s, big-endian (40 R101, 20 R57). -/
def fetch (s : State) : Except Fault Word :=
  match memRead s s.pc.toNat with
  | .error f => .error f
  | .ok hi =>
    match memRead s (s.pc.toNat + 1) with
    | .error f => .error f
    | .ok lo => .ok (wordOfBytes hi lo)

/-- Is the operation `LD Vx, K`? (40 R104) -/
def isKeyWait : Operation → Bool
  | .instr (.ldVxK _) => true
  | _ => false

/-- The state the handler sees: `pc` advanced (40 R102), `waiting` cleared unless the operation is `LD Vx, K` (R104). -/
def enter (op : Operation) (s : State) : State :=
  { advancePc s with waiting := s.waiting && isKeyWait op }

/-- A timer's decrement, clamped at 0 (40 R106). -/
def countDown (t : Byte) : Byte := if t = 0 then 0 else t - 1

/-- `tick()` (40 R106). -/
def tick (s : State) : State := { s with dt := countDown s.dt, st := countDown s.st }

/-- The end of a step whose handler raised no error: the tick, unless the outcome was await (40 R106, R110). After the
handler `waiting` is 1 exactly when the outcome was await (10 R39; log 7). -/
def finish (s : State) : State := if s.waiting then s else tick s

end Sys2Proof.Machine
end

