-- ==== Sys2Proof/Machine/Operands.lean ====
section
/-! DEFINITION. The operand forms (30 R73, R74): registers, zero-extended immediates, key numbers, the bytes at `I`. -/

namespace Sys2Proof.Machine

/-- `V[x]`. -/
def readV (s : State) (x : RegIdx) : Byte := s.v[x]

/-- `V[x] <- b`. -/
def setV (s : State) (x : RegIdx) (b : Byte) : State := { s with v := s.v.set x.val b }

/-- `zext_16(nnn)` (30 R73). -/
def addrWord (nnn : Addr) : Word := nnn.setWidth 16

/-- A register's value extended to 16 bits (41 R123, 44 R153). -/
def byteWord (b : Byte) : Word := b.setWidth 16

/-- `V[x] mod 16`: a key number or a font digit (42 R134, 46 R173). -/
def lowDigit (b : Byte) : RegIdx := ⟨b.toNat % 16, Nat.mod_lt _ (by decide)⟩

/-- `K[k]` (10 R38). -/
def keyDown (s : State) (k : RegIdx) : Bool := s.keys.getLsbD k.val

/-- The keys newly pressed: `K[j] AND NOT kprev[j]` (47 R183). -/
def newlyPressed (s : State) : BitVec 16 := s.keys &&& ~~~s.kprev

/-- The least index whose bit is 1 (47 R183). -/
def leastKey (m : BitVec 16) : Option RegIdx := (List.finRange 16).find? fun j => m.getLsbD j.val

/-- The operand of the shifts: `V[y]` if `QUIRK_SHIFT_VY`, else `V[x]` (43 R148, R149). -/
def shiftOperand (s : State) (x y : RegIdx) : Byte := if s.cfg.quirkShiftVy then readV s y else readV s x

/-- `V[0..x]`, in order (46 R171). -/
def regsUpTo (s : State) (x : RegIdx) : List Byte := s.v.toList.take (x.val + 1)

/-- `V[j] <- mem[base + j]` for `j` from 0 to `x` (46 R172). -/
def loadRegs (s : State) (base : Nat) (x : RegIdx) : State :=
  { s with v := Vector.ofFn fun j : Fin 16 => if j.val ≤ x.val then byteAt s (base + j.val) else s.v[j] }

/-- The decimal digits of a byte, hundreds first (46 R170). -/
def bcdDigits (v : Byte) : List Byte :=
  [BitVec.ofNat 8 (v.toNat / 100), BitVec.ofNat 8 (v.toNat / 10 % 10), BitVec.ofNat 8 (v.toNat % 10)]

/-- The address of a digit's glyph: `0x050 + 5 * d` (46 R173). -/
def glyphAddr (d : RegIdx) : Word := BitVec.ofNat 16 (0x050 + 5 * d.val)

end Sys2Proof.Machine
end

