-- ==== Sys2Proof/Machine/Flags.lean ====
section
/-! DEFINITION. The flag values of 10 R25, each computed from the operands as they were before the instruction
(43 R140), and the order of the two writes. -/

namespace Sys2Proof.Machine

/-- A flag is written as 0 or 1 (10 R25). -/
def flagByte (b : Bool) : Byte := if b then 1 else 0

/-- Carry: the 9-bit sum exceeds 255 (43 R145). -/
def carryFlag (a b : Byte) : Bool := decide (255 < a.toNat + b.toNat)

/-- Not-borrow: the minuend is at least the subtrahend (43 R146, R147). -/
def notBorrowFlag (minuend subtrahend : Byte) : Bool := decide (subtrahend.toNat ≤ minuend.toNat)

/-- The bit `SHR` shifts out (43 R148). -/
def lowBitFlag (a : Byte) : Bool := a.getLsbD 0

/-- The bit `SHL` shifts out (43 R149). -/
def highBitFlag (a : Byte) : Bool := a.getLsbD 7

/-- `V[0xF] <- flag`. -/
def setVF (s : State) (f : Bool) : State := setV s flagReg (flagByte f)

/-- `V[x] <- r`, then `V[0xF] <- f`: the flag is written last and wins when `x = 0xF` (43 R140, D14). -/
def writeResultFlag (s : State) (x : RegIdx) (r : Byte) (f : Bool) : State := setVF (setV s x r) f

end Sys2Proof.Machine
end

