-- ==== Sys2Proof/Machine/Alu.lean ====
section
/-! DEFINITION. Register transfer and the ALU (spec 43). Operands are read first; a flag is written last (43 R140). -/

namespace Sys2Proof.Machine

/-- `LD Vx, Vy` (43 R141). -/
def execLdVxVy (x y : RegIdx) (s : State) : Result := .next (setV s x (readV s y))

/-- `OR Vx, Vy` (43 R142); `VF` is not reset. -/
def execOrVxVy (x y : RegIdx) (s : State) : Result := .next (setV s x (readV s x ||| readV s y))

/-- `AND Vx, Vy` (43 R143); `VF` is not reset. -/
def execAndVxVy (x y : RegIdx) (s : State) : Result := .next (setV s x (readV s x &&& readV s y))

/-- `XOR Vx, Vy` (43 R144); `VF` is not reset. -/
def execXorVxVy (x y : RegIdx) (s : State) : Result := .next (setV s x (readV s x ^^^ readV s y))

/-- `ADD Vx, Vy` (43 R145). -/
def execAddVxVy (x y : RegIdx) (s : State) : Result :=
  .next (writeResultFlag s x (readV s x + readV s y) (carryFlag (readV s x) (readV s y)))

/-- `SUB Vx, Vy` (43 R146). -/
def execSubVxVy (x y : RegIdx) (s : State) : Result :=
  .next (writeResultFlag s x (readV s x - readV s y) (notBorrowFlag (readV s x) (readV s y)))

/-- `SUBN Vx, Vy` (43 R147): `V[y]` is the minuend. -/
def execSubnVxVy (x y : RegIdx) (s : State) : Result :=
  .next (writeResultFlag s x (readV s y - readV s x) (notBorrowFlag (readV s y) (readV s x)))

/-- `SHR Vx {, Vy}` (43 R148). -/
def execShrVxVy (x y : RegIdx) (s : State) : Result :=
  .next (writeResultFlag s x (shiftOperand s x y >>> 1) (lowBitFlag (shiftOperand s x y)))

/-- `SHL Vx {, Vy}` (43 R149). -/
def execShlVxVy (x y : RegIdx) (s : State) : Result :=
  .next (writeResultFlag s x (shiftOperand s x y <<< 1) (highBitFlag (shiftOperand s x y)))

end Sys2Proof.Machine
end

