-- ==== Sys2Proof/Machine/Immediate.lean ====
section
/-! DEFINITION. Immediate loads, index arithmetic and random (spec 44). None writes a flag. -/

namespace Sys2Proof.Machine

/-- `I <- w`. -/
def setIndex (s : State) (w : Word) : State := { s with i := w }

/-- The random byte that arrives at this step (44 R155): a free value (log 2). -/
def arrivingByte (s : State) : Byte := Config.randomByte s.rndIndex

/-- The arriving byte is used up: the next `RND` gets another. -/
def useByte (s : State) : State := { s with rndIndex := s.rndIndex + 1 }

/-- `LD Vx, byte` (44 R150). -/
def execLdVxByte (x : RegIdx) (kk : Byte) (s : State) : Result := .next (setV s x kk)

/-- `ADD Vx, byte` (44 R151). -/
def execAddVxByte (x : RegIdx) (kk : Byte) (s : State) : Result := .next (setV s x (readV s x + kk))

/-- `LD I, addr` (44 R152). -/
def execLdIAddr (nnn : Addr) (s : State) : Result := .next (setIndex s (addrWord nnn))

/-- `ADD I, Vx` (44 R153). -/
def execAddIVx (x : RegIdx) (s : State) : Result := .next (setIndex s (s.i + byteWord (readV s x)))

/-- `RND Vx, byte` (44 R154). -/
def execRndVxByte (x : RegIdx) (kk : Byte) (s : State) : Result :=
  .next (setV (useByte s) x (arrivingByte s &&& kk))

end Sys2Proof.Machine
end

