-- ==== Sys2Proof/Machine/Bulk.lean ====
section
/-! DEFINITION. BCD, bulk register transfer and font address (spec 46). `I` is left unchanged by the three memory
instructions (46 R170, R174). -/

namespace Sys2Proof.Machine

/-- `LD B, Vx` (46 R170). -/
def execLdBVx (x : RegIdx) (s : State) : Result :=
  withRun s.i.toNat 3 (.next (storeBytes s s.i.toNat (bcdDigits (readV s x))))

/-- `LD [I], Vx` (46 R171). -/
def execLdMemVx (x : RegIdx) (s : State) : Result :=
  withRun s.i.toNat (x.val + 1) (.next (storeBytes s s.i.toNat (regsUpTo s x)))

/-- `LD Vx, [I]` (46 R172). -/
def execLdVxMem (x : RegIdx) (s : State) : Result :=
  withRun s.i.toNat (x.val + 1) (.next (loadRegs s s.i.toNat x))

/-- `LD F, Vx` (46 R173). -/
def execLdFVx (x : RegIdx) (s : State) : Result := .next (setIndex s (glyphAddr (lowDigit (readV s x))))

end Sys2Proof.Machine
end

