-- ==== Sys2Proof/Machine/ControlFlow.lean ====
section
/-! DEFINITION. The control-flow instructions (spec 41). On entry `pc` is the post-fetch value. -/

namespace Sys2Proof.Machine

/-- `JP addr` (41 R120). -/
def execJp (nnn : Addr) (s : State) : Result := .next (jumpTo s (addrWord nnn))

/-- `CALL addr` (41 R121): the check precedes every write. -/
def execCall (nnn : Addr) (s : State) : Result :=
  if h : s.sp.val < 16 then .next (jumpTo (pushReturn s h) (addrWord nnn))
  else raise (.stackOverflow (currentAddr s))

/-- `RET` (41 R122). -/
def execRet (s : State) : Result :=
  if h : 0 < s.sp.val then .next (popReturn s h)
  else raise (.stackUnderflow (currentAddr s))

/-- `JP V0, addr` (41 R123). -/
def execJpV0Addr (nnn : Addr) (s : State) : Result := .next (jumpTo s (addrWord nnn + byteWord (readV s 0)))

end Sys2Proof.Machine
end

