-- ==== Sys2Proof/Machine/Draw.lean ====
section
/-! DEFINITION. The framebuffer instructions (spec 45). -/

namespace Sys2Proof.Machine

/-- `pix(col, row)` for the origin `(x0, y0)` (45 R160): per-axis wrap, or the flat wrap of the toggle. -/
def pixelCell (c : Config) (x0 y0 col row : Nat) : Nat :=
  if c.quirkFlatWrap then ((x0 + col) + (y0 + row) * c.fbW) % (c.fbW * c.fbH)
  else (y0 + row) % c.fbH * c.fbW + (x0 + col) % c.fbW

/-- The cells that the 1 bits of one sprite byte land on, leftmost (bit 7) first (45 R161). -/
def rowCells (c : Config) (x0 y0 row : Nat) (b : Byte) : List Nat :=
  ((List.range 8).filter fun col => b.getLsbD (7 - col)).map fun col => pixelCell c x0 y0 col row

/-- The cells of the sprite's rows from `row` on, rows outer, columns inner (45 R161, R162). -/
def spriteCells (c : Config) (x0 y0 : Nat) : Nat → List Byte → List Nat
  | _, [] => []
  | row, b :: bs => rowCells c x0 y0 row b ++ spriteCells c x0 y0 (row + 1) bs

/-- Plot one 1 bit on cell `j`: note a collision with a set pixel, then toggle (45 R161). -/
def plotCell (p : List Bool × Bool) (j : Nat) : List Bool × Bool :=
  (p.1.set j (!p.1.getD j false), p.2 || p.1.getD j false)

/-- Plot cells one after another, each test seeing the framebuffer as updated so far (45 R162, D20): the framebuffer
after, and whether any plotted bit collided. -/
def plotCells (fb : List Bool) (cells : List Nat) : List Bool × Bool := cells.foldl plotCell (fb, false)

/-- Draw the sprite bytes at the origin: `fb`, then `V[0xF]`, then `draw_flag` (45 R161). -/
def drawSprite (s : State) (x0 y0 : Nat) (bytes : List Byte) : State :=
  let p := plotCells s.fb (spriteCells s.cfg x0 y0 0 bytes)
  setVF { s with fb := p.1, drawFlag := true } p.2

/-- Every pixel 0, and `draw_flag` (45 R165). -/
def clearScreen (s : State) : State :=
  { s with fb := List.replicate (s.cfg.fbW * s.cfg.fbH) false, drawFlag := true }

/-- `DRW Vx, Vy, n` (45 R161, R163). -/
def execDrw (x y : RegIdx) (n : Nibble) (s : State) : Result :=
  withRun s.i.toNat n.toNat
    (.next (drawSprite s (readV s x).toNat (readV s y).toNat (bytesAt s s.i.toNat n.toNat)))

/-- `CLS` (45 R165). -/
def execCls (s : State) : Result := .next (clearScreen s)

end Sys2Proof.Machine
end

