-- ==== Sys2Proof/Machine/Skips.lean ====
section
/-! DEFINITION. The conditional skips (spec 42). -/

namespace Sys2Proof.Machine

/-- `SE Vx, byte` (42 R130). -/
def execSeVxByte (x : RegIdx) (kk : Byte) (s : State) : Result := .next (skipIf s (readV s x == kk))

/-- `SNE Vx, byte` (42 R131). -/
def execSneVxByte (x : RegIdx) (kk : Byte) (s : State) : Result := .next (skipIf s (readV s x != kk))

/-- `SE Vx, Vy` (42 R132). -/
def execSeVxVy (x y : RegIdx) (s : State) : Result := .next (skipIf s (readV s x == readV s y))

/-- `SNE Vx, Vy` (42 R133). -/
def execSneVxVy (x y : RegIdx) (s : State) : Result := .next (skipIf s (readV s x != readV s y))

/-- `SKP Vx` (42 R134): the level of key `V[x] mod 16`. -/
def execSkp (x : RegIdx) (s : State) : Result := .next (skipIf s (keyDown s (lowDigit (readV s x))))

/-- `SKNP Vx` (42 R135). -/
def execSknp (x : RegIdx) (s : State) : Result := .next (skipIf s (!keyDown s (lowDigit (readV s x))))

end Sys2Proof.Machine
end

