-- ==== Sys2Proof/Machine/Sys.lean ====
section
/-! DEFINITION. `SYS` and the `Unknown` outcome (spec 48): neither has an effect of its own. -/

namespace Sys2Proof.Machine

/-- `SYS addr` (48 R190): `addr` is not used. -/
def execSys (_nnn : Addr) (s : State) : Result := .next s

/-- `Unknown(word)` (48 R191): a no-op; the report is the step's status (`transact`). -/
def execUnknown (_word : Word) (s : State) : Result := .next s

end Sys2Proof.Machine
end

