-- ==== Sys2Proof/Machine/Timers.lean ====
section
/-! DEFINITION. Timer access and the key wait (spec 47). -/

namespace Sys2Proof.Machine

/-- `LD Vx, DT` (47 R180). -/
def execLdVxDt (x : RegIdx) (s : State) : Result := .next (setV s x s.dt)

/-- `LD DT, Vx` (47 R181). -/
def execLdDtVx (x : RegIdx) (s : State) : Result := .next { s with dt := readV s x }

/-- `LD ST, Vx` (47 R182). -/
def execLdStVx (x : RegIdx) (s : State) : Result := .next { s with st := readV s x }

/-- The await outcome: stay on this instruction, remember the keypad (47 R183). -/
def awaitKey (s : State) : State := { s with waiting := true, kprev := s.keys, pc := s.pc - 2 }

/-- The wait ends with key `j` (47 R183). -/
def takeKey (s : State) (x j : RegIdx) : State :=
  setV { s with waiting := false, kprev := s.keys } x (BitVec.ofNat 8 j.val)

/-- `LD Vx, K` (47 R183): the first execution arms the wait; a later one ends it when a key is newly pressed. -/
def execLdVxK (x : RegIdx) (s : State) : Result :=
  if s.waiting then
    match leastKey (newlyPressed s) with
    | some j => .next (takeKey s x j)
    | none => .next (awaitKey s)
  else .next (awaitKey s)

end Sys2Proof.Machine
end

