-- ==== Sys2Proof/Machine/Cycle.lean ====
section
/-! DEFINITION. A step from its fetched word on (40 R102 to R110). -/

namespace Sys2Proof.Machine

/-- The execute phase of a decoded operation (40 R105). -/
def execOp : Operation → State → Result
  | .instr i, s => exec i s
  | .unknown w, s => execUnknown w s

/-- The rest of a step once its word is fetched (40 R102 to R110). -/
def runWord (w : Word) (s : State) : Result :=
  match execOp (decode w) (enter (decode w) s) with
  | .next t => .next (finish t)
  | .fault f => .fault f
  | .refused r => .refused r

end Sys2Proof.Machine
end

