-- ==== Sys2Proof/Machine/Step.lean ====
section
/-! DEFINITION. The step (40 R100): fetch, advance, decode, execute, tick; and the placing of an instruction where the
next step fetches. -/

namespace Sys2Proof.Machine

/-- One step (40 R100). An error answers a fault and nothing else: the state is the one before (40 R109). -/
def step (s : State) : Host.Outcome State Fault Refusal :=
  match fetch s with
  | .error f => raise f
  | .ok w => runWord w s

/-- `s` with the opcode-table instruction `w` stored big-endian at `pc`, as a host's load would leave it (log 13). -/
def State.withFetchWord (s : State) (nbits w : Nat) : State := storeBytes s s.pc.toNat (tableBytes nbits w)

end Sys2Proof.Machine
end

