-- ==== Sys2Proof/Machine/HostOps.lean ====
section
/-! DEFINITION. The host interface (60 section 6; 10 R45): the step with its returned status, the host's operations
between steps, and the outputs the host reads. -/

namespace Sys2Proof.Machine

/-- What `step` and `loadProgram` return (60 R200), the `info` as the constructor's argument. -/
inductive Status where
  /-- Code 0: a step that completed an instruction, or a `loadProgram` that wrote its image. -/
  | ok
  /-- Code 1: a step in which `LD Vx, K` did not complete. -/
  | awaitingKey
  /-- Code 2: a step that decoded `Unknown(word)`; a report, not an error (60 R209). -/
  | unknownOpcode (word : Word)
  /-- Code 3. -/
  | outOfBounds (info : Word)
  /-- Code 4. -/
  | stackOverflow (info : Word)
  /-- Code 5. -/
  | stackUnderflow (info : Word)
  /-- Code 6: `loadProgram` only (60 R204). -/
  | programTooLarge (length : Nat)
  deriving DecidableEq, Repr

/-- The status's number (60 R200). -/
def statusCode : Status → Nat
  | .ok => 0
  | .awaitingKey => 1
  | .unknownOpcode _ => 2
  | .outOfBounds _ => 3
  | .stackOverflow _ => 4
  | .stackUnderflow _ => 5
  | .programTooLarge _ => 6

/-- The 16-bit `info` (60 R200). A length above 65535 has no stated `info`: a free value (log 11). -/
def statusInfo : Status → Word
  | .ok => 0
  | .awaitingKey => 0
  | .unknownOpcode w => w
  | .outOfBounds a => a
  | .stackOverflow a => a
  | .stackUnderflow a => a
  | .programTooLarge n => if n < 65536 then BitVec.ofNat 16 n else Config.longImageInfo n

/-- The status of an error (60 R200). -/
def faultStatus : Fault → Status
  | .outOfBounds a => .outOfBounds a
  | .stackOverflow a => .stackOverflow a
  | .stackUnderflow a => .stackUnderflow a

/-- The status of a step from `s` that ended in `t` without an error (40 R108, R110; log 4). -/
def completedStatus (s t : State) : Status :=
  if t.waiting then .awaitingKey
  else
    match fetch s with
    | .ok w =>
      match decode w with
      | .unknown u => .unknownOpcode u
      | .instr _ => .ok
    | .error f => faultStatus f

/-- The spec's `step`, as the host sees it: the state after and the status returned (40 R100). On an error the state is
the one before (40 R109, 60 R205). -/
def transact (s : State) : Except Refusal (State × Status) :=
  match step s with
  | .next t => .ok (t, completedStatus s t)
  | .fault f => .ok (s, faultStatus f)
  | .refused r => .error r

/-- `reset()` (60 R221, 70 R240 to R242): everything but the parameters. The random bytes keep arriving from where they
were (log 16). -/
def hostReset (s : State) : State := State.resetWith s.cfg s.rndIndex

/-- `loadProgram(bytes)` (60 R222): at most 3584 bytes, written at `0x200`; else nothing is changed. -/
def loadProgram (bytes : List Byte) (s : State) : State × Status :=
  if 3584 < bytes.length then (s, .programTooLarge bytes.length) else (storeBytes s 0x200 bytes, .ok)

/-- `setKeys(snapshot)` (60 R223). -/
def setKeys (snapshot : BitVec 16) (s : State) : State := { s with keys := snapshot }

/-- `ackFrame()` (60 R225). -/
def ackFrame (s : State) : State := { s with drawFlag := false }

/-- What the host's frame read sees: the grid and the draw flag (60 R224). -/
def readFrame (s : State) : List Bool × Bool := (s.fb, s.drawFlag)

/-- Pixel `(px, py)` of the grid (60 R224, 10 R36). -/
def pixel (s : State) (px py : Nat) : Bool := s.fb.getD (py * s.cfg.fbW + px) false

/-- `sound_active` (60 R227): 1 if `ST > 0`. -/
def soundActive (s : State) : Bool := decide (0 < s.st.toNat)

/-- The operations by which the host acts on the core (10 R45). -/
inductive HostOp where
  /-- One step. -/
  | step
  /-- `reset()`. -/
  | reset
  /-- `loadProgram(bytes)`. -/
  | loadProgram (bytes : List Byte)
  /-- `setKeys(snapshot)`. -/
  | setKeys (snapshot : BitVec 16)
  /-- `ackFrame()`. -/
  | ackFrame
  deriving DecidableEq, Repr

/-- One operation of the host: the state after it and the status it returns, if it returns one. `reset`, `setKeys` and
`ackFrame` return nothing (10 R45, 70 R242). -/
def act : HostOp → State → Except Refusal (State × Option Status)
  | .step, s =>
    match transact s with
    | .ok r => .ok (r.1, some r.2)
    | .error e => .error e
  | .reset, s => .ok (hostReset s, none)
  | .loadProgram bytes, s => .ok ((loadProgram bytes s).1, some (loadProgram bytes s).2)
  | .setKeys snapshot, s => .ok (setKeys snapshot s, none)
  | .ackFrame, s => .ok (ackFrame s, none)

/-- A session: the host's operations one after another, in any order and number (60 R220). -/
def session : List HostOp → State → Except Refusal State
  | [], s => .ok s
  | op :: ops, s =>
    match act op s with
    | .ok r => session ops r.1
    | .error e => .error e

end Sys2Proof.Machine
end

