-- ==== Sys2Proof/Safety.lean ====
section
/-! DEFINITION. What claims call a sound state and a stuck one (60 R206, R210). -/

namespace Sys2Proof.Machine

/-- The parameters are within the bounds of 00 R6. -/
abbrev ConfigOk (s : State) : Prop := s.cfg.wf = true

/-- Memory is in canonical form; in particular no byte outside `mem[0..4095]` is held (60 R210). -/
abbrev MemoryOk (s : State) : Prop := Memory.wf s.cfg s.mem

/-- The framebuffer keeps its size (60 R210). -/
abbrev FrameOk (s : State) : Prop := s.fb.length = s.cfg.fbW * s.cfg.fbH

/-- `pc` is within 0 to `0x10FE` (10 R27, 60 R210). -/
abbrev PcOk (s : State) : Prop := s.pc.toNat ≤ 0x10FE

/-- Every stack entry is within 0 to `0x10FE` (60 R210). -/
abbrev StackOk (s : State) : Prop := ∀ j : Fin 16, s.stack[j].toNat ≤ 0x10FE

/-- The invariants of 60 R210 that the state's types do not already hold. -/
abbrev Sound (s : State) : Prop := ConfigOk s ∧ MemoryOk s ∧ FrameOk s ∧ PcOk s ∧ StackOk s

/-- The step from `s` is an error with this fault; the machine is stuck there until the host intervenes (60 R206). -/
def StuckWith (s : State) (f : Fault) : Prop := step s = .fault f

/-! ### Frames: what an instruction leaves alone -/

/-- Only general registers may differ; every byte of memory reads as before. -/
def OnlyRegisters (s t : State) : Prop := t = { s with v := t.v } ∧ ∀ a, byteAt t a = byteAt s a

/-- Only `pc` may differ; every byte of memory reads as before. -/
def OnlyPc (s t : State) : Prop := t = { s with pc := t.pc } ∧ ∀ a, byteAt t a = byteAt s a

/-- Only `I` may differ; every byte of memory reads as before. -/
def OnlyIndex (s t : State) : Prop := t = { s with i := t.i } ∧ ∀ a, byteAt t a = byteAt s a

/-- Only the framebuffer, `draw_flag` and `V[0xF]` may differ; every byte of memory reads as before. -/
def OnlyDrawing (s t : State) : Prop :=
  t = { s with v := t.v, fb := t.fb, drawFlag := t.drawFlag } ∧ (∀ j : RegIdx, j ≠ flagReg → t.v[j] = s.v[j]) ∧
    ∀ a, byteAt t a = byteAt s a

/-- Only memory may differ, and of it only the `k` bytes from `base`. -/
def OnlyBytes (s t : State) (base k : Nat) : Prop :=
  t = { s with mem := t.mem } ∧ ∀ a, a < base ∨ base + k ≤ a → byteAt t a = byteAt s a

/-- The cells the 1 bits of an `n`-row sprite at `I` land on, rows outer, columns inner, bit 7 leftmost (45 R161). -/
def plottedCells (s : State) (x0 y0 n : Nat) : List Nat :=
  (List.range n).flatMap fun row =>
    ((List.range 8).filter fun col => (byteAt s (s.i.toNat + row)).getLsbD (7 - col)).map fun col =>
      pixelCell s.cfg x0 y0 col row

end Sys2Proof.Machine
end

