-- ==== Sys2Proof/Certificates/Slice0/Obligations.lean ====
section
/-! DEFINITION. The statements for the provers. Each docstring names the rule or section of spec/ it formalises, and
what in it is the spec's own decision (`D<n>` of 92) or general knowledge (93 part 2). `exec i s` is the execute phase:
its state's `pc` is the post-fetch value (40 R102). -/

open Sys2Proof Sys2Proof.Machine

/-! ### Encoding (spec 30) -/

/-- Decoding an encoded well-formed instruction gives it back, every operand at every value (30 R71 to R83; the patterns
are the spec's general knowledge, D11). -/
def Obligations.DecodeOfEncode : Prop :=
  ∀ i : Instr, i.wellFormed = true → decode (encode i) = .instr i

/-- A decoded word is its instruction's own word, but for the low nibble that branches 5 and 9 ignore (30 R83, D12; the
encoder's 0 there is log 10). -/
def Obligations.DecodedWordIsItsEncoding : Prop :=
  ∀ (w : Word) (i : Instr), decode w = .instr i →
    i.wellFormed = true ∧
      (encode i = w ∨ ((w.toNat / 4096 = 5 ∨ w.toNat / 4096 = 9) ∧ encode i = w &&& 0xFFF0))

/-- The `Unknown` words, exactly (30 R84; derived there from R77 to R83, general knowledge D11, D13). -/
def Obligations.UnknownWordsExactly : Prop :=
  ∀ w u : Word, decode w = .unknown u ↔
    u = w ∧
      ((w.toNat / 4096 = 0x8 ∧ w.toNat % 16 ∈ [0x8, 0x9, 0xA, 0xB, 0xC, 0xD, 0xF]) ∨
       (w.toNat / 4096 = 0xE ∧ w.toNat % 256 ∉ [0x9E, 0xA1]) ∨
       (w.toNat / 4096 = 0xF ∧ w.toNat % 256 ∉ [0x07, 0x0A, 0x15, 0x18, 0x1E, 0x29, 0x33, 0x55, 0x65]))

/-- Words of 95 (section 2, Q7), at least one of each family, decode to the instructions given there. -/
def Obligations.SpecWordsDecode : Prop :=
  decode 0x0123 = .instr (.sys 0x123) ∧ decode 0x00E0 = .instr .cls ∧ decode 0x00EE = .instr .ret ∧
  decode 0x1ABC = .instr (.jp 0xABC) ∧ decode 0x3342 = .instr (.seVxByte 3 0x42) ∧
  decode 0x912F = .instr (.sneVxVy 1 2) ∧ decode 0x8234 = .instr (.addVxVy 2 3) ∧
  decode 0x801E = .instr (.shlVxVy 0 1) ∧ decode 0xAFFF = .instr (.ldIAddr 0xFFF) ∧
  decode 0xC30F = .instr (.rndVxByte 3 0x0F) ∧ decode 0xD125 = .instr (.drw 1 2 5) ∧
  decode 0xF533 = .instr (.ldBVx 5) ∧ decode 0xF265 = .instr (.ldVxMem 2) ∧
  decode 0xF307 = .instr (.ldVxDt 3) ∧ decode 0xF00A = .instr (.ldVxK 0) ∧
  decode 0x8018 = .unknown 0x8018

/-! ### The step (spec 40) -/

/-- The fetched word is the byte at `pc` above the byte at `pc + 1`, for any parity of `pc` (20 R57). -/
def Obligations.FetchIsBigEndian : Prop :=
  ∀ s : State, s.pc.toNat ≤ 0xFFE →
    ∃ w, fetch s = .ok w ∧
      w.toNat = 256 * (byteAt s s.pc.toNat).toNat + (byteAt s (s.pc.toNat + 1)).toNat

/-- A step whose `pc` is above `0xFFE` is an `OutOfBounds` with `info = max(pc, 0x1000)` (40 R101; failing is D6). -/
def Obligations.FetchAboveTopFaults : Prop :=
  ∀ s : State, 0xFFE < s.pc.toNat →
    ∃ a : Word, step s = .fault (.outOfBounds a) ∧ a.toNat = max s.pc.toNat 0x1000

/-- A step runs the decoded instruction: `pc` moved past the word, `waiting` cleared unless it is `LD Vx, K`, then
`exec`, then the tick unless the outcome was await (40 R100 to R106, R110; D25, D26). -/
def Obligations.StepRunsDecodedInstruction : Prop :=
  ∀ (s : State) (i : Instr), s.pc.toNat ≤ 0xFFE →
    decode (wordOfBytes (byteAt s s.pc.toNat) (byteAt s (s.pc.toNat + 1))) = .instr i →
    step s =
      match exec i { s with
          pc := s.pc + 2
          waiting := match i with
            | .ldVxK _ => s.waiting
            | _ => false } with
      | .next t => .next (if t.waiting then t else { t with dt := countDown t.dt, st := countDown t.st })
      | .fault f => .fault f
      | .refused r => .refused r

/-- An `Unknown` word is a reported no-op: `pc` advances, the timers tick, `waiting` is cleared, nothing else changes,
and the status carries the word (48 R191, 40 R104, R108; D26, D33). -/
def Obligations.UnknownIsReportedNoOp : Prop :=
  ∀ (s : State) (w : Word), fetch s = .ok w → decode w = .unknown w →
    transact s =
      .ok ({ s with pc := s.pc + 2, waiting := false, dt := countDown s.dt, st := countDown s.st }, .unknownOpcode w)

/-- Every completed step that does not write a timer counts it down by 1, clamped at 0; one that writes it leaves the
written value less 1; a waiting step leaves both alone (40 R106, R107, R110; D25, D32). -/
def Obligations.TimersCountCompletedSteps : Prop :=
  ∀ (s t : State) (w : Word), fetch s = .ok w → step s = .next t →
    (t.waiting = true → t.dt = s.dt ∧ t.st = s.st) ∧
    (t.waiting = false →
      ((∀ x, decode w ≠ .instr (.ldDtVx x)) → t.dt.toNat = s.dt.toNat - 1) ∧
      ((∀ x, decode w ≠ .instr (.ldStVx x)) → t.st.toNat = s.st.toNat - 1) ∧
      (∀ x, decode w = .instr (.ldDtVx x) → t.dt.toNat = s.v[x].toNat - 1) ∧
      (∀ x, decode w = .instr (.ldStVx x) → t.st.toNat = s.v[x].toNat - 1))

/-- What the host gets back from a step. On an error: the state as it was, and the error's own status with its `info`.
Else the state after, with `AwaitingKey` for a waiting step, `UnknownOpcode` for an unknown word, `Ok` otherwise. And the
number and the `info` of each status (40 R108 to R110, 60 R200, R205; the numbers and `info` values are D3, the unchanged
state D4; log 9). -/
def Obligations.StepStatus : Prop :=
  (∀ (s : State) (a : Word),
    (step s = .fault (.outOfBounds a) → transact s = .ok (s, .outOfBounds a)) ∧
    (step s = .fault (.stackOverflow a) → transact s = .ok (s, .stackOverflow a)) ∧
    (step s = .fault (.stackUnderflow a) → transact s = .ok (s, .stackUnderflow a))) ∧
  (∀ (s t : State) (w : Word), fetch s = .ok w → step s = .next t →
    ∃ r, transact s = .ok (t, r) ∧
      (t.waiting = true → r = .awaitingKey) ∧
      (t.waiting = false → (∀ u, decode w = .unknown u → r = .unknownOpcode u) ∧
        (∀ i, decode w = .instr i → r = .ok))) ∧
  (statusCode .ok = 0 ∧ statusInfo .ok = 0) ∧
  (statusCode .awaitingKey = 1 ∧ statusInfo .awaitingKey = 0) ∧
  (∀ a : Word,
    (statusCode (.unknownOpcode a) = 2 ∧ statusInfo (.unknownOpcode a) = a) ∧
    (statusCode (.outOfBounds a) = 3 ∧ statusInfo (.outOfBounds a) = a) ∧
    (statusCode (.stackOverflow a) = 4 ∧ statusInfo (.stackOverflow a) = a) ∧
    (statusCode (.stackUnderflow a) = 5 ∧ statusInfo (.stackUnderflow a) = a))

/-- An error repeats, whatever keys are down and whatever random bytes arrive: the next step from the unchanged state
raises the same error with the same `info` (60 R206; D5). -/
def Obligations.ErrorRepeats : Prop :=
  ∀ (s : State) (f : Fault), step s = .fault f →
    ∀ (k : BitVec 16) (n : Nat), step { s with keys := k, rndIndex := n } = .fault f

/-- Which instruction raises which error, when, and with which `info`; no other raises any (60 R201 to R203,
R208; the `info` values are the spec's D3, the range check before any access its D8; log 9). -/
def Obligations.ErrorSources : Prop :=
  ∀ (i : Instr) (s : State) (f : Fault), exec i s = .fault f ↔
    match i with
    | .call _ => s.sp.val = 16 ∧ f = .stackOverflow (s.pc - 2)
    | .ret => s.sp.val = 0 ∧ f = .stackUnderflow (s.pc - 2)
    | .drw _ _ n => 1 ≤ n.toNat ∧ 0xFFF < s.i.toNat + n.toNat - 1 ∧
        f = .outOfBounds (BitVec.ofNat 16 (max s.i.toNat 0x1000))
    | .ldBVx _ => 0xFFF < s.i.toNat + 2 ∧ f = .outOfBounds (BitVec.ofNat 16 (max s.i.toNat 0x1000))
    | .ldMemVx x => 0xFFF < s.i.toNat + x.val ∧ f = .outOfBounds (BitVec.ofNat 16 (max s.i.toNat 0x1000))
    | .ldVxMem x => 0xFFF < s.i.toNat + x.val ∧ f = .outOfBounds (BitVec.ofNat 16 (max s.i.toNat 0x1000))
    | _ => False

/-- No step refuses: every word has a meaning (30 R85, 48 R191). -/
def Obligations.NoStepRefuses : Prop :=
  ∀ (s : State) (r : Refusal), step s ≠ .refused r

/-- A step that ends waiting executed `LD Vx, K` and changed nothing but `waiting` and `kprev` (40 R110; D25). -/
def Obligations.WaitingStepChangesOnlyTheWait : Prop :=
  ∀ s t : State, step s = .next t → t.waiting = true →
    t = { s with waiting := true, kprev := s.keys } ∧
      ∃ w x, fetch s = .ok w ∧ decode w = .instr (.ldVxK x)

/-- The random byte matters to a step only when it decodes `RND` (40 R111; the byte's index in State is log 2). -/
def Obligations.OnlyRndReadsTheRandomByte : Prop :=
  ∀ (s : State) (k : Nat), (∀ w x kk, fetch s = .ok w → decode w ≠ .instr (.rndVxByte x kk)) →
    step { s with rndIndex := k } =
      match step s with
      | .next t => .next { t with rndIndex := k }
      | .fault f => .fault f
      | .refused r => .refused r

/-! ### What only some instructions write -/

/-- Among the steps, only `DRW` and `CLS` write the framebuffer and the draw flag, and no step clears the flag
(45 R166, 60 R226; D10, D36). -/
def Obligations.FramebufferWriters : Prop :=
  ∀ (s t : State) (w : Word), fetch s = .ok w → step s = .next t →
    ((∀ x y n, decode w ≠ .instr (.drw x y n)) → decode w ≠ .instr .cls → t.fb = s.fb ∧ t.drawFlag = s.drawFlag) ∧
    (s.drawFlag = true → t.drawFlag = true)

/-- Among the steps, only `LD B, Vx` and `LD [I], Vx` write memory (20 R50, R63). -/
def Obligations.MemoryWriters : Prop :=
  ∀ (s t : State) (w : Word), fetch s = .ok w → step s = .next t →
    (∀ x, decode w ≠ .instr (.ldBVx x)) → (∀ x, decode w ≠ .instr (.ldMemVx x)) →
    t.mem = s.mem ∧ ∀ a, byteAt t a = byteAt s a

/-- Only `CALL` writes the stack, and only `CALL` and `RET` move `sp` (10 R32, R33; D28). -/
def Obligations.StackWriters : Prop :=
  ∀ (s t : State) (w : Word), fetch s = .ok w → step s = .next t →
    (∀ a, decode w ≠ .instr (.call a)) → t.stack = s.stack ∧ (decode w ≠ .instr .ret → t.sp = s.sp)

/-- Only `LD I, addr`, `ADD I, Vx` and `LD F, Vx` write `I`; the bulk transfers leave it (10 R31, 46 R174; D21). -/
def Obligations.IndexWriters : Prop :=
  ∀ (s t : State) (w : Word), fetch s = .ok w → step s = .next t →
    (∀ a, decode w ≠ .instr (.ldIAddr a)) → (∀ x, decode w ≠ .instr (.addIVx x)) →
    (∀ x, decode w ≠ .instr (.ldFVx x)) → t.i = s.i

/-- No step changes the parameters or the keypad, and only `LD Vx, K` changes `kprev` (10 R38, R40, R43; D24, D27). -/
def Obligations.StepLeavesKeypadAndParameters : Prop :=
  ∀ (s t : State) (w : Word), fetch s = .ok w → step s = .next t →
    t.cfg = s.cfg ∧ t.keys = s.keys ∧ ((∀ x, decode w ≠ .instr (.ldVxK x)) → t.kprev = s.kprev)

/-- The instructions that write `VF` as a flag write 0 or 1; of the others, only one whose destination is `V[0xF]`
changes it (10 R24 to R26; D15). -/
def Obligations.FlagRegisterWriters : Prop :=
  ∀ (i : Instr) (s t : State), exec i s = .next t →
    match i with
    | .addVxVy _ _ | .subVxVy _ _ | .subnVxVy _ _ | .shrVxVy _ _ | .shlVxVy _ _ | .drw _ _ _ =>
        t.v[flagReg] = 0 ∨ t.v[flagReg] = 1
    | .ldVxByte x _ | .addVxByte x _ | .rndVxByte x _ | .ldVxVy x _ | .orVxVy x _ | .andVxVy x _ | .xorVxVy x _
    | .ldVxDt x | .ldVxK x | .ldVxMem x => x ≠ flagReg → t.v[flagReg] = s.v[flagReg]
    | _ => t.v[flagReg] = s.v[flagReg]

/-! ### Invariants, reset, host -/

/-- Every step keeps the invariants of 60 R210: memory's canonical form within 4096 bytes, the framebuffer's size, `pc`
and every stack entry at most `0x10FE`, the parameters' bounds. -/
def Obligations.StepKeepsSound : Prop :=
  ∀ s t : State, Sound s → step s = .next t → Sound t

/-- The reset state is sound (60 R210, 70 R240). -/
def Obligations.ResetIsSound : Prop := Sound State.reset

/-- Whatever the host does, in any order, from a sound state, every state between operations is sound (60 R210, R220). -/
def Obligations.SessionKeepsSound : Prop :=
  ∀ (ops : List HostOp) (s t : State), Sound s → session ops s = .ok t → Sound t

/-- What `reset()` leaves, for any parameters, returning no status; that the state right after power-on is it with the
defaults; and the five defaults, `FONT` byte by byte (70 R240 to R242, 00 R6, 10 R41; D29, D30; the font's bytes are D22,
log 9; the kept random index is the model's, log 16). -/
def Obligations.ResetValues : Prop :=
  (∀ s : State, ∃ r, act .reset s = .ok (r, none) ∧
    (∀ x : RegIdx, r.v[x] = 0) ∧ r.i = 0 ∧ r.pc = 0x200 ∧ (∀ j : Fin 16, r.stack[j] = 0) ∧ r.sp.val = 0 ∧
    r.dt = 0 ∧ r.st = 0 ∧
    (∀ k : Fin 80, byteAt r (0x050 + k.val) = s.cfg.font[k]) ∧
    (∀ a, a < 0x050 ∨ 0x0A0 ≤ a → byteAt r a = 0) ∧
    r.fb.length = s.cfg.fbW * s.cfg.fbH ∧ (∀ j, r.fb.getD j false = false) ∧
    r.drawFlag = false ∧ r.keys = 0 ∧ r.waiting = false ∧ r.kprev = 0 ∧
    r.cfg = s.cfg ∧ r.rndIndex = s.rndIndex) ∧
  (∀ s : State, s.cfg = State.reset.cfg → s.rndIndex = State.reset.rndIndex → hostReset s = State.reset) ∧
  State.reset.cfg.fbW = 64 ∧ State.reset.cfg.fbH = 32 ∧ State.reset.cfg.quirkShiftVy = false ∧
  State.reset.cfg.quirkFlatWrap = false ∧
  State.reset.cfg.font.toList =
    [0xF0, 0x90, 0x90, 0x90, 0xF0] ++ [0x20, 0x60, 0x20, 0x20, 0x70] ++
    [0xF0, 0x10, 0xF0, 0x80, 0xF0] ++ [0xF0, 0x10, 0xF0, 0x10, 0xF0] ++
    [0x90, 0x90, 0xF0, 0x10, 0x10] ++ [0xF0, 0x80, 0xF0, 0x10, 0xF0] ++
    [0xF0, 0x80, 0xF0, 0x90, 0xF0] ++ [0xF0, 0x10, 0x20, 0x40, 0x40] ++
    [0xF0, 0x90, 0xF0, 0x90, 0xF0] ++ [0xF0, 0x90, 0xF0, 0x10, 0xF0] ++
    [0xF0, 0x90, 0xF0, 0x90, 0x90] ++ [0xE0, 0x90, 0xE0, 0x90, 0xE0] ++
    [0xF0, 0x80, 0x80, 0x80, 0xF0] ++ [0xE0, 0x90, 0x90, 0x90, 0xE0] ++
    [0xF0, 0x80, 0xF0, 0x80, 0xF0] ++ [0xF0, 0x80, 0xF0, 0x80, 0x80]

/-- `loadProgram` writes the image at `0x200` and nothing else, or is refused whole with status 6 and the length as `info`
(60 R200, R204, R222; D3, D31; of a length above 65535 the 16-bit `info` is not stated, log 11). -/
def Obligations.LoadProgramWritesTheImage : Prop :=
  ∀ (bytes : List Byte) (s : State),
    (bytes.length ≤ 3584 →
      ∃ t, loadProgram bytes s = (t, .ok) ∧ OnlyBytes s t 0x200 bytes.length ∧
        ∀ k (h : k < bytes.length), byteAt t (0x200 + k) = bytes[k]) ∧
    (3584 < bytes.length → loadProgram bytes s = (s, .programTooLarge bytes.length)) ∧
    statusCode (.programTooLarge bytes.length) = 6 ∧
    (bytes.length < 65536 → (statusInfo (.programTooLarge bytes.length)).toNat = bytes.length)

/-- `setKeys` replaces the keypad, `ackFrame` clears the draw flag, and nothing else; the host sees the grid's cell
`py * FB_W + px` as pixel `(px, py)`, and the sound as active while `ST > 0` (60 R223 to R227; D27, D35, D36). -/
def Obligations.HostInputsAndOutputs : Prop :=
  ∀ s : State,
    (∀ k : BitVec 16, act (.setKeys k) s = .ok ({ s with keys := k }, none)) ∧
    act .ackFrame s = .ok ({ s with drawFlag := false }, none) ∧
    readFrame s = (s.fb, s.drawFlag) ∧
    (∀ px py, pixel s px py = s.fb.getD (py * s.cfg.fbW + px) false) ∧
    (soundActive s = true ↔ 0 < s.st.toNat)

/-! ### Control flow (spec 41) -/

/-- 41 R120. The word's pattern is D11 (log 9). -/
def Obligations.JpSetsPc : Prop :=
  ∀ (nnn : Addr) (s : State),
    decode (0x1#4 ++ nnn) = .instr (.jp nnn) ∧
    ∃ t, exec (.jp nnn) s = .next t ∧ t.pc.toNat = nnn.toNat ∧ OnlyPc s t

/-- 41 R121: `CALL` pushes the whole post-fetch `pc`, or with 16 return addresses stacked is a `StackOverflow` (the
slot and the `info` are D3, D28). The word's pattern is D11 (log 9). -/
def Obligations.CallPushesAndJumps : Prop :=
  ∀ (nnn : Addr) (s : State),
    decode (0x2#4 ++ nnn) = .instr (.call nnn) ∧
    (s.sp.val < 16 →
      ∃ t, exec (.call nnn) s = .next t ∧ t.pc.toNat = nnn.toNat ∧ t.sp.val = s.sp.val + 1 ∧
        (∀ j : Fin 16, t.stack[j] = if j.val = s.sp.val then s.pc else s.stack[j]) ∧
        t = { s with pc := t.pc, sp := t.sp, stack := t.stack } ∧ ∀ a, byteAt t a = byteAt s a) ∧
    (s.sp.val = 16 → exec (.call nnn) s = .fault (.stackOverflow (s.pc - 2)))

/-- 41 R122: `RET` pops into `pc` and leaves the entry, or on an empty stack is a `StackUnderflow` (D3, D28). The
word's pattern is D11 (log 9). -/
def Obligations.RetPopsPc : Prop :=
  ∀ s : State,
    decode 0x00EE = .instr .ret ∧
    (0 < s.sp.val →
      ∃ t, exec .ret s = .next t ∧ t.sp.val + 1 = s.sp.val ∧
        (∀ j : Fin 16, j.val + 1 = s.sp.val → t.pc = s.stack[j]) ∧
        t = { s with pc := t.pc, sp := t.sp } ∧ ∀ a, byteAt t a = byteAt s a) ∧
    (s.sp.val = 0 → exec .ret s = .fault (.stackUnderflow (s.pc - 2)))

/-- `CALL` then `RET`, wherever the `RET` stands, gives back the `pc` after the `CALL` and the same stack depth, at any
of the 16 levels (95 S4, 41 R122; D28). -/
def Obligations.CallThenRetReturns : Prop :=
  ∀ (nnn : Addr) (s : State), s.sp.val < 16 →
    ∃ t, exec (.call nnn) s = .next t ∧
      ∀ q : Word, ∃ u, exec .ret { t with pc := q } = .next u ∧ u.pc = s.pc ∧ u.sp = s.sp ∧
        ∀ j : Fin 16, j.val ≠ s.sp.val → u.stack[j] = s.stack[j]

/-- 41 R123. The word's pattern is D11 (log 9). -/
def Obligations.JpV0AddsV0 : Prop :=
  ∀ (nnn : Addr) (s : State),
    decode (0xB#4 ++ nnn) = .instr (.jpV0Addr nnn) ∧
    ∃ t, exec (.jpV0Addr nnn) s = .next t ∧
      t.pc.toNat = (nnn.toNat + s.v[(0 : RegIdx)].toNat) % 65536 ∧ OnlyPc s t

/-! ### Skips (spec 42) -/

/-- 42 R130, R131. The word's pattern is D11 (log 9). -/
def Obligations.SkipsOnByte : Prop :=
  ∀ (x : RegIdx) (kk : Byte) (s : State),
    decode (0x3#4 ++ regNibble x ++ kk) = .instr (.seVxByte x kk) ∧
    decode (0x4#4 ++ regNibble x ++ kk) = .instr (.sneVxByte x kk) ∧
    (∃ t, exec (.seVxByte x kk) s = .next t ∧ OnlyPc s t ∧
      t.pc.toNat = if s.v[x] = kk then (s.pc.toNat + 2) % 65536 else s.pc.toNat) ∧
    (∃ t, exec (.sneVxByte x kk) s = .next t ∧ OnlyPc s t ∧
      t.pc.toNat = if s.v[x] ≠ kk then (s.pc.toNat + 2) % 65536 else s.pc.toNat)

/-- 42 R132, R133; the low nibble of the word is ignored. The word's pattern is D11 (log 9). -/
def Obligations.SkipsOnRegister : Prop :=
  ∀ (x y : RegIdx) (n : Nibble) (s : State),
    decode (0x5#4 ++ regNibble x ++ regNibble y ++ n) = .instr (.seVxVy x y) ∧
    decode (0x9#4 ++ regNibble x ++ regNibble y ++ n) = .instr (.sneVxVy x y) ∧
    (∃ t, exec (.seVxVy x y) s = .next t ∧ OnlyPc s t ∧
      t.pc.toNat = if s.v[x] = s.v[y] then (s.pc.toNat + 2) % 65536 else s.pc.toNat) ∧
    (∃ t, exec (.sneVxVy x y) s = .next t ∧ OnlyPc s t ∧
      t.pc.toNat = if s.v[x] ≠ s.v[y] then (s.pc.toNat + 2) % 65536 else s.pc.toNat)

/-- 42 R134, R135: the key tested is `V[x] mod 16`. The word's pattern is D11 (log 9). -/
def Obligations.SkipsOnKey : Prop :=
  ∀ (x : RegIdx) (s : State),
    decode (0xE#4 ++ regNibble x ++ 0x9E#8) = .instr (.skp x) ∧
    decode (0xE#4 ++ regNibble x ++ 0xA1#8) = .instr (.sknp x) ∧
    (∃ t, exec (.skp x) s = .next t ∧ OnlyPc s t ∧
      t.pc.toNat = if s.keys.getLsbD (s.v[x].toNat % 16) = true then (s.pc.toNat + 2) % 65536 else s.pc.toNat) ∧
    (∃ t, exec (.sknp x) s = .next t ∧ OnlyPc s t ∧
      t.pc.toNat = if s.keys.getLsbD (s.v[x].toNat % 16) = false then (s.pc.toNat + 2) % 65536 else s.pc.toNat)

/-! ### Register transfer and ALU (spec 43) -/

/-- 43 R141 to R144: the four instructions without a flag; `V[0xF]` changes only as `V[x]`. The word's pattern is D11
(log 9). -/
def Obligations.TransferAndLogic : Prop :=
  ∀ (x y : RegIdx) (s : State),
    decode (0x8#4 ++ regNibble x ++ regNibble y ++ 0x0#4) = .instr (.ldVxVy x y) ∧
    decode (0x8#4 ++ regNibble x ++ regNibble y ++ 0x1#4) = .instr (.orVxVy x y) ∧
    decode (0x8#4 ++ regNibble x ++ regNibble y ++ 0x2#4) = .instr (.andVxVy x y) ∧
    decode (0x8#4 ++ regNibble x ++ regNibble y ++ 0x3#4) = .instr (.xorVxVy x y) ∧
    (∃ t, exec (.ldVxVy x y) s = .next t ∧ OnlyRegisters s t ∧ (∀ j, j ≠ x → t.v[j] = s.v[j]) ∧
      t.v[x] = s.v[y]) ∧
    (∃ t, exec (.orVxVy x y) s = .next t ∧ OnlyRegisters s t ∧ (∀ j, j ≠ x → t.v[j] = s.v[j]) ∧
      ∀ k, t.v[x].getLsbD k = (s.v[x].getLsbD k || s.v[y].getLsbD k)) ∧
    (∃ t, exec (.andVxVy x y) s = .next t ∧ OnlyRegisters s t ∧ (∀ j, j ≠ x → t.v[j] = s.v[j]) ∧
      ∀ k, t.v[x].getLsbD k = (s.v[x].getLsbD k && s.v[y].getLsbD k)) ∧
    (∃ t, exec (.xorVxVy x y) s = .next t ∧ OnlyRegisters s t ∧ (∀ j, j ≠ x → t.v[j] = s.v[j]) ∧
      ∀ k, t.v[x].getLsbD k = (s.v[x].getLsbD k ^^ s.v[y].getLsbD k))

/-- 43 R145: wrapping sum, carry in `V[0xF]`, the flag winning when `x = 0xF`. The word's pattern is D11 (log 9). -/
def Obligations.AddSetsCarry : Prop :=
  ∀ (x y : RegIdx) (s : State),
    decode (0x8#4 ++ regNibble x ++ regNibble y ++ 0x4#4) = .instr (.addVxVy x y) ∧
    ∃ t, exec (.addVxVy x y) s = .next t ∧ OnlyRegisters s t ∧
      (∀ j, j ≠ x → j ≠ flagReg → t.v[j] = s.v[j]) ∧
      (x ≠ flagReg → t.v[x].toNat = (s.v[x].toNat + s.v[y].toNat) % 256) ∧
      t.v[flagReg] = if 255 < s.v[x].toNat + s.v[y].toNat then 1 else 0

/-- 43 R146: wrapping difference `V[x] - V[y]`, not-borrow in `V[0xF]`. The word's pattern is D11 (log 9). -/
def Obligations.SubSetsNotBorrow : Prop :=
  ∀ (x y : RegIdx) (s : State),
    decode (0x8#4 ++ regNibble x ++ regNibble y ++ 0x5#4) = .instr (.subVxVy x y) ∧
    ∃ t, exec (.subVxVy x y) s = .next t ∧ OnlyRegisters s t ∧
      (∀ j, j ≠ x → j ≠ flagReg → t.v[j] = s.v[j]) ∧
      (x ≠ flagReg → t.v[x].toNat = (s.v[x].toNat + 256 - s.v[y].toNat) % 256) ∧
      t.v[flagReg] = if s.v[y].toNat ≤ s.v[x].toNat then 1 else 0

/-- 43 R147: wrapping difference `V[y] - V[x]`, not-borrow in `V[0xF]` (which operand is the minuend is the spec's
general knowledge, 93 part 2). The word's pattern is D11 (log 9). -/
def Obligations.SubnSetsNotBorrow : Prop :=
  ∀ (x y : RegIdx) (s : State),
    decode (0x8#4 ++ regNibble x ++ regNibble y ++ 0x7#4) = .instr (.subnVxVy x y) ∧
    ∃ t, exec (.subnVxVy x y) s = .next t ∧ OnlyRegisters s t ∧
      (∀ j, j ≠ x → j ≠ flagReg → t.v[j] = s.v[j]) ∧
      (x ≠ flagReg → t.v[x].toNat = (s.v[y].toNat + 256 - s.v[x].toNat) % 256) ∧
      t.v[flagReg] = if s.v[x].toNat ≤ s.v[y].toNat then 1 else 0

/-- 43 R148, under both settings of `QUIRK_SHIFT_VY` (D16): half the operand, its bit 0 in `V[0xF]`. The word's
pattern is D11 (log 9). -/
def Obligations.ShrShiftsRight : Prop :=
  ∀ (x y : RegIdx) (s : State) (a : Byte),
    (s.cfg.quirkShiftVy = false → a = s.v[x]) → (s.cfg.quirkShiftVy = true → a = s.v[y]) →
    decode (0x8#4 ++ regNibble x ++ regNibble y ++ 0x6#4) = .instr (.shrVxVy x y) ∧
    ∃ t, exec (.shrVxVy x y) s = .next t ∧ OnlyRegisters s t ∧
      (∀ j, j ≠ x → j ≠ flagReg → t.v[j] = s.v[j]) ∧
      (x ≠ flagReg → t.v[x].toNat = a.toNat / 2) ∧
      t.v[flagReg].toNat = a.toNat % 2

/-- 43 R149, under both settings of `QUIRK_SHIFT_VY` (D16): twice the operand, its bit 7 in `V[0xF]`. The word's
pattern is D11 (log 9). -/
def Obligations.ShlShiftsLeft : Prop :=
  ∀ (x y : RegIdx) (s : State) (a : Byte),
    (s.cfg.quirkShiftVy = false → a = s.v[x]) → (s.cfg.quirkShiftVy = true → a = s.v[y]) →
    decode (0x8#4 ++ regNibble x ++ regNibble y ++ 0xE#4) = .instr (.shlVxVy x y) ∧
    ∃ t, exec (.shlVxVy x y) s = .next t ∧ OnlyRegisters s t ∧
      (∀ j, j ≠ x → j ≠ flagReg → t.v[j] = s.v[j]) ∧
      (x ≠ flagReg → t.v[x].toNat = a.toNat * 2 % 256) ∧
      t.v[flagReg].toNat = a.toNat / 128

/-! ### Immediates, index, random (spec 44) -/

/-- 44 R150, R151: neither writes a flag. The word's pattern is D11 (log 9). -/
def Obligations.ByteLoadAndAdd : Prop :=
  ∀ (x : RegIdx) (kk : Byte) (s : State),
    decode (0x6#4 ++ regNibble x ++ kk) = .instr (.ldVxByte x kk) ∧
    decode (0x7#4 ++ regNibble x ++ kk) = .instr (.addVxByte x kk) ∧
    (∃ t, exec (.ldVxByte x kk) s = .next t ∧ OnlyRegisters s t ∧ (∀ j, j ≠ x → t.v[j] = s.v[j]) ∧
      t.v[x] = kk) ∧
    (∃ t, exec (.addVxByte x kk) s = .next t ∧ OnlyRegisters s t ∧ (∀ j, j ≠ x → t.v[j] = s.v[j]) ∧
      t.v[x].toNat = (s.v[x].toNat + kk.toNat) % 256)

/-- 44 R152, R153: neither writes a flag or is an error, whatever value `I` takes. The word's pattern is D11 (log 9). -/
def Obligations.IndexLoadAndAdd : Prop :=
  ∀ (nnn : Addr) (x : RegIdx) (s : State),
    decode (0xA#4 ++ nnn) = .instr (.ldIAddr nnn) ∧
    decode (0xF#4 ++ regNibble x ++ 0x1E#8) = .instr (.addIVx x) ∧
    (∃ t, exec (.ldIAddr nnn) s = .next t ∧ OnlyIndex s t ∧ t.i.toNat = nnn.toNat) ∧
    (∃ t, exec (.addIVx x) s = .next t ∧ OnlyIndex s t ∧ t.i.toNat = (s.i.toNat + s.v[x].toNat) % 65536)

/-- 44 R154: the arriving random byte, masked. The byte is a free value and its index the model's own (log 2); what a
program may rely on is `V[x] AND (NOT kk) = 0`. The word's pattern is D11 (log 9). -/
def Obligations.RndMasksTheRandomByte : Prop :=
  ∀ (x : RegIdx) (kk : Byte) (s : State),
    decode (0xC#4 ++ regNibble x ++ kk) = .instr (.rndVxByte x kk) ∧
    ∃ t, exec (.rndVxByte x kk) s = .next t ∧
      t.v[x] = Config.randomByte s.rndIndex &&& kk ∧ t.v[x] &&& ~~~kk = 0 ∧
      (∀ j, j ≠ x → t.v[j] = s.v[j]) ∧
      t = { s with v := t.v, rndIndex := s.rndIndex + 1 } ∧ ∀ a, byteAt t a = byteAt s a

/-! ### Framebuffer (spec 45) -/

/-- 45 R160: the cell of a sprite bit under each wrap; it is a cell of the grid; and the two wraps agree on a sprite
that stays on the screen (D17). -/
def Obligations.PixelAddress : Prop :=
  ∀ (c : Config) (x0 y0 col row : Nat), c.wf = true →
    (c.quirkFlatWrap = false →
      pixelCell c x0 y0 col row = (y0 + row) % c.fbH * c.fbW + (x0 + col) % c.fbW) ∧
    (c.quirkFlatWrap = true →
      pixelCell c x0 y0 col row = ((x0 + col) + (y0 + row) * c.fbW) % (c.fbW * c.fbH)) ∧
    pixelCell c x0 y0 col row < c.fbW * c.fbH ∧
    (x0 + col < c.fbW → y0 + row < c.fbH →
      pixelCell { c with quirkFlatWrap := true } x0 y0 col row =
        pixelCell { c with quirkFlatWrap := false } x0 y0 col row)

/-- 45 R161 to R163, for any parameters: `DRW` toggles each cell once for every 1 bit that lands on it, in order, and
sets `V[0xF]` exactly when some bit found its cell set at its turn; `n = 0` draws nothing (D18 to D20). The word's
pattern is D11 (log 9). -/
def Obligations.DrwTogglesAndDetectsCollision : Prop :=
  ∀ (x y : RegIdx) (n : Nibble) (s : State) (cs : List Nat),
    ConfigOk s → FrameOk s → n = 0 ∨ s.i.toNat + n.toNat - 1 ≤ 0xFFF →
    cs = plottedCells s s.v[x].toNat s.v[y].toNat n.toNat →
    decode (0xD#4 ++ regNibble x ++ regNibble y ++ n) = .instr (.drw x y n) ∧
    ∃ t, exec (.drw x y n) s = .next t ∧ OnlyDrawing s t ∧ t.drawFlag = true ∧ t.fb.length = s.fb.length ∧
      (∀ j, j < s.fb.length → t.fb.getD j false = (s.fb.getD j false ^^ decide (cs.count j % 2 = 1))) ∧
      (t.v[flagReg] = 0 ∨ t.v[flagReg] = 1) ∧
      (t.v[flagReg] = 1 ↔
        ∃ m, ∃ h : m < cs.length, (s.fb.getD cs[m] false ^^ decide ((cs.take m).count cs[m] % 2 = 1)) = true)

/-- 45 R162 (d), for a grid at least 8 by 15 (the default is 64 by 32): no two bits of one sprite share a cell, so
`V[0xF] = 1` exactly when some bit lands on a pixel that was set before the draw (D20). -/
def Obligations.DrwCollisionOnWideGrid : Prop :=
  ∀ (x y : RegIdx) (n : Nibble) (s t : State) (cs : List Nat),
    FrameOk s → 8 ≤ s.cfg.fbW → 15 ≤ s.cfg.fbH →
    cs = plottedCells s s.v[x].toNat s.v[y].toNat n.toNat → exec (.drw x y n) s = .next t →
    cs.Nodup ∧ (t.v[flagReg] = 1 ↔ ∃ c ∈ cs, s.fb.getD c false = true)

/-- 45 R162 (a), (b): the same sprite drawn twice at the same origin restores the framebuffer; on a grid at least 8 by
15 the second draw collides exactly when some bit of the sprite landed on a pixel that was clear before the first
(90 C2). -/
def Obligations.DrwTwiceRestores : Prop :=
  ∀ (x y : RegIdx) (n : Nibble) (s t u : State),
    ConfigOk s → FrameOk s → exec (.drw x y n) s = .next t →
    t.v[x] = s.v[x] → t.v[y] = s.v[y] → exec (.drw x y n) t = .next u →
    u.fb = s.fb ∧
    (8 ≤ s.cfg.fbW → 15 ≤ s.cfg.fbH →
      (u.v[flagReg] = 1 ↔
        ∃ c ∈ plottedCells s s.v[x].toNat s.v[y].toNat n.toNat, s.fb.getD c false = false))

/-- 45 R165 (the whole instruction is D10): every pixel 0, `draw_flag` 1, `V[0xF]` untouched. The word's pattern is
D11 (log 9). -/
def Obligations.ClsClearsTheGrid : Prop :=
  ∀ s : State,
    decode 0x00E0 = .instr .cls ∧
    ∃ t, exec .cls s = .next t ∧ t = { s with fb := t.fb, drawFlag := true } ∧
      t.fb.length = s.cfg.fbW * s.cfg.fbH ∧ (∀ j, t.fb.getD j false = false) ∧ ∀ a, byteAt t a = byteAt s a

/-! ### BCD, bulk transfer, font (spec 46) -/

/-- 46 R170. That an error leaves every byte alone, and its `info`, are D3, D4 and D8. The word's pattern is D11 (log
9). -/
def Obligations.LdBStoresDigits : Prop :=
  ∀ (x : RegIdx) (s : State),
    decode (0xF#4 ++ regNibble x ++ 0x33#8) = .instr (.ldBVx x) ∧
    (s.i.toNat + 2 ≤ 4095 →
      ∃ t, exec (.ldBVx x) s = .next t ∧ OnlyBytes s t s.i.toNat 3 ∧
        (byteAt t s.i.toNat).toNat = s.v[x].toNat / 100 ∧
        (byteAt t (s.i.toNat + 1)).toNat = s.v[x].toNat / 10 % 10 ∧
        (byteAt t (s.i.toNat + 2)).toNat = s.v[x].toNat % 10) ∧
    (4095 < s.i.toNat + 2 →
      ∃ a : Word, exec (.ldBVx x) s = .fault (.outOfBounds a) ∧ a.toNat = max s.i.toNat 4096)

/-- 46 R171. That an error leaves every byte alone, and its `info`, are D3, D4 and D8. The word's pattern is D11 (log
9). -/
def Obligations.LdMemStoresRegisters : Prop :=
  ∀ (x : RegIdx) (s : State),
    decode (0xF#4 ++ regNibble x ++ 0x55#8) = .instr (.ldMemVx x) ∧
    (s.i.toNat + x.val ≤ 4095 →
      ∃ t, exec (.ldMemVx x) s = .next t ∧ OnlyBytes s t s.i.toNat (x.val + 1) ∧
        ∀ j : RegIdx, j ≤ x → byteAt t (s.i.toNat + j.val) = s.v[j]) ∧
    (4095 < s.i.toNat + x.val →
      ∃ a : Word, exec (.ldMemVx x) s = .fault (.outOfBounds a) ∧ a.toNat = max s.i.toNat 4096)

/-- 46 R172. That an error leaves every byte alone, and its `info`, are D3, D4 and D8. The word's pattern is D11 (log
9). -/
def Obligations.LdVxMemLoadsRegisters : Prop :=
  ∀ (x : RegIdx) (s : State),
    decode (0xF#4 ++ regNibble x ++ 0x65#8) = .instr (.ldVxMem x) ∧
    (s.i.toNat + x.val ≤ 4095 →
      ∃ t, exec (.ldVxMem x) s = .next t ∧ OnlyRegisters s t ∧
        (∀ j : RegIdx, j ≤ x → t.v[j] = byteAt s (s.i.toNat + j.val)) ∧
        (∀ j : RegIdx, x < j → t.v[j] = s.v[j])) ∧
    (4095 < s.i.toNat + x.val →
      ∃ a : Word, exec (.ldVxMem x) s = .fault (.outOfBounds a) ∧ a.toNat = max s.i.toNat 4096)

/-- `LD [I], Vx` then `LD Vx, [I]` into any register bank gives `V[0..x]` back (95 S7, 46 R172, R174; D21). -/
def Obligations.BulkRoundTrip : Prop :=
  ∀ (x : RegIdx) (s : State), s.i.toNat + x.val ≤ 4095 →
    ∃ t, exec (.ldMemVx x) s = .next t ∧
      ∀ r : Vector Byte 16, ∃ u, exec (.ldVxMem x) { t with v := r } = .next u ∧ u.i = s.i ∧
        (∀ j : RegIdx, j ≤ x → u.v[j] = s.v[j]) ∧ (∀ j : RegIdx, x < j → u.v[j] = r[j])

/-- 46 R173. The word's pattern is D11 (log 9). -/
def Obligations.LdFPointsAtGlyph : Prop :=
  ∀ (x : RegIdx) (s : State),
    decode (0xF#4 ++ regNibble x ++ 0x29#8) = .instr (.ldFVx x) ∧
    ∃ t, exec (.ldFVx x) s = .next t ∧ OnlyIndex s t ∧ t.i.toNat = 0x050 + 5 * (s.v[x].toNat % 16)

/-! ### Timers, key wait, SYS (spec 47, 48) -/

/-- 47 R180: the value read is `DT` as the step began; the step's tick then counts it down. The word's pattern is D11
(log 9). -/
def Obligations.LdVxDtReadsTimer : Prop :=
  ∀ (x : RegIdx) (s : State),
    decode (0xF#4 ++ regNibble x ++ 0x07#8) = .instr (.ldVxDt x) ∧
    (∃ t, exec (.ldVxDt x) s = .next t ∧ OnlyRegisters s t ∧ (∀ j, j ≠ x → t.v[j] = s.v[j]) ∧ t.v[x] = s.dt) ∧
    (∀ w, fetch s = .ok w → decode w = .instr (.ldVxDt x) →
      ∃ t, step s = .next t ∧ t.v[x] = s.dt ∧ t.dt.toNat = s.dt.toNat - 1)

/-- 47 R181, R182: the timer takes `V[x]`, and the tick of the same step follows the write; so with `V[x] = 1` the
host never sees the sound active. The word's pattern is D11 (log 9). -/
def Obligations.TimerWrites : Prop :=
  ∀ (x : RegIdx) (s : State),
    decode (0xF#4 ++ regNibble x ++ 0x15#8) = .instr (.ldDtVx x) ∧
    decode (0xF#4 ++ regNibble x ++ 0x18#8) = .instr (.ldStVx x) ∧
    (∃ t, exec (.ldDtVx x) s = .next t ∧ t = { s with dt := s.v[x] } ∧ ∀ a, byteAt t a = byteAt s a) ∧
    (∃ t, exec (.ldStVx x) s = .next t ∧ t = { s with st := s.v[x] } ∧ ∀ a, byteAt t a = byteAt s a) ∧
    (∀ w, fetch s = .ok w → decode w = .instr (.ldDtVx x) →
      ∃ t, step s = .next t ∧ t.dt.toNat = s.v[x].toNat - 1) ∧
    (∀ w, fetch s = .ok w → decode w = .instr (.ldStVx x) →
      ∃ t, step s = .next t ∧ t.st.toNat = s.v[x].toNat - 1 ∧ (soundActive t = true ↔ 2 ≤ s.v[x].toNat))

/-- 47 R183 (the edge detector is D24): `LD Vx, K` arms the wait, goes on waiting while no key is newly pressed, and
else takes the least newly pressed key. The last two clauses say the same of a whole step: a waiting step changes
`waiting` and `kprev` alone (D25), and a completing one ends the wait, moves `pc` past the word and ticks (D32). The
word's pattern is D11 (log 9). -/
def Obligations.KeyWait : Prop :=
  ∀ (x : RegIdx) (s : State),
    decode (0xF#4 ++ regNibble x ++ 0x0A#8) = .instr (.ldVxK x) ∧
    (s.waiting = false ∨ (∀ j : Fin 16, s.keys.getLsbD j.val = true → s.kprev.getLsbD j.val = true) →
      exec (.ldVxK x) s = .next { s with waiting := true, kprev := s.keys, pc := s.pc - 2 }) ∧
    (∀ j : RegIdx, s.waiting = true → s.keys.getLsbD j.val = true → s.kprev.getLsbD j.val = false →
      (∀ k : RegIdx, k < j → s.keys.getLsbD k.val = true → s.kprev.getLsbD k.val = true) →
      ∃ t, exec (.ldVxK x) s = .next t ∧ t.v[x].toNat = j.val ∧ (∀ k, k ≠ x → t.v[k] = s.v[k]) ∧
        t = { s with v := t.v, waiting := false, kprev := s.keys } ∧ ∀ a, byteAt t a = byteAt s a) ∧
    (∀ w, fetch s = .ok w → decode w = .instr (.ldVxK x) →
      (s.waiting = false ∨ (∀ j : Fin 16, s.keys.getLsbD j.val = true → s.kprev.getLsbD j.val = true)) →
      step s = .next { s with waiting := true, kprev := s.keys }) ∧
    (∀ (w : Word) (j : RegIdx), fetch s = .ok w → decode w = .instr (.ldVxK x) →
      s.waiting = true → s.keys.getLsbD j.val = true → s.kprev.getLsbD j.val = false →
      (∀ k : RegIdx, k < j → s.keys.getLsbD k.val = true → s.kprev.getLsbD k.val = true) →
      ∃ t, step s = .next t ∧ t.v[x].toNat = j.val ∧ (∀ k, k ≠ x → t.v[k] = s.v[k]) ∧
        t.dt.toNat = s.dt.toNat - 1 ∧ t.st.toNat = s.st.toNat - 1 ∧
        t = { s with
          v := t.v, pc := s.pc + 2, waiting := false, kprev := s.keys, dt := t.dt, st := t.st } ∧
        ∀ a, byteAt t a = byteAt s a)

/-- 48 R190: `SYS addr` does nothing of its own; its step advances `pc`, ticks and returns `Ok`. That the step also clears
`waiting` is not R190's: it is 40 R104, the spec's decision D26 (log 9). The word's pattern is D11 (log 9). -/
def Obligations.SysIsNoOp : Prop :=
  ∀ (nnn : Addr) (s : State),
    (nnn ≠ 0x0E0 → nnn ≠ 0x0EE → decode (0x0#4 ++ nnn) = .instr (.sys nnn)) ∧
    exec (.sys nnn) s = .next s ∧
    (∀ w, fetch s = .ok w → decode w = .instr (.sys nnn) →
      transact s =
        .ok ({ s with pc := s.pc + 2, waiting := false, dt := countDown s.dt, st := countDown s.st }, .ok))
end

