-- ==== Sys2Proof/Laws/State.lean ====
section
/-! SUPPORT. The fields of each named update of the state: what it changes and what it leaves, one small lemma each, so
that no proof unfolds a record update. -/

namespace Sys2Proof.Machine

/-! ### `setV` -/

@[simp] theorem setV_cfg (s : State) (x : RegIdx) (b : Byte) : (setV s x b).cfg = s.cfg := rfl
@[simp] theorem setV_v (s : State) (x : RegIdx) (b : Byte) : (setV s x b).v = s.v.set x.val b := rfl
@[simp] theorem setV_i (s : State) (x : RegIdx) (b : Byte) : (setV s x b).i = s.i := rfl
@[simp] theorem setV_pc (s : State) (x : RegIdx) (b : Byte) : (setV s x b).pc = s.pc := rfl
@[simp] theorem setV_stack (s : State) (x : RegIdx) (b : Byte) : (setV s x b).stack = s.stack := rfl
@[simp] theorem setV_sp (s : State) (x : RegIdx) (b : Byte) : (setV s x b).sp = s.sp := rfl
@[simp] theorem setV_dt (s : State) (x : RegIdx) (b : Byte) : (setV s x b).dt = s.dt := rfl
@[simp] theorem setV_st (s : State) (x : RegIdx) (b : Byte) : (setV s x b).st = s.st := rfl
@[simp] theorem setV_mem (s : State) (x : RegIdx) (b : Byte) : (setV s x b).mem = s.mem := rfl
@[simp] theorem setV_fb (s : State) (x : RegIdx) (b : Byte) : (setV s x b).fb = s.fb := rfl
@[simp] theorem setV_drawFlag (s : State) (x : RegIdx) (b : Byte) : (setV s x b).drawFlag = s.drawFlag := rfl
@[simp] theorem setV_keys (s : State) (x : RegIdx) (b : Byte) : (setV s x b).keys = s.keys := rfl
@[simp] theorem setV_waiting (s : State) (x : RegIdx) (b : Byte) : (setV s x b).waiting = s.waiting := rfl
@[simp] theorem setV_kprev (s : State) (x : RegIdx) (b : Byte) : (setV s x b).kprev = s.kprev := rfl
@[simp] theorem setV_rndIndex (s : State) (x : RegIdx) (b : Byte) : (setV s x b).rndIndex = s.rndIndex := rfl

/-! ### `setVF` -/

@[simp] theorem setVF_cfg (s : State) (f : Bool) : (setVF s f).cfg = s.cfg := rfl
@[simp] theorem setVF_v (s : State) (f : Bool) : (setVF s f).v = s.v.set 15 (flagByte f) := rfl
@[simp] theorem setVF_i (s : State) (f : Bool) : (setVF s f).i = s.i := rfl
@[simp] theorem setVF_pc (s : State) (f : Bool) : (setVF s f).pc = s.pc := rfl
@[simp] theorem setVF_stack (s : State) (f : Bool) : (setVF s f).stack = s.stack := rfl
@[simp] theorem setVF_sp (s : State) (f : Bool) : (setVF s f).sp = s.sp := rfl
@[simp] theorem setVF_dt (s : State) (f : Bool) : (setVF s f).dt = s.dt := rfl
@[simp] theorem setVF_st (s : State) (f : Bool) : (setVF s f).st = s.st := rfl
@[simp] theorem setVF_mem (s : State) (f : Bool) : (setVF s f).mem = s.mem := rfl
@[simp] theorem setVF_fb (s : State) (f : Bool) : (setVF s f).fb = s.fb := rfl
@[simp] theorem setVF_drawFlag (s : State) (f : Bool) : (setVF s f).drawFlag = s.drawFlag := rfl
@[simp] theorem setVF_keys (s : State) (f : Bool) : (setVF s f).keys = s.keys := rfl
@[simp] theorem setVF_waiting (s : State) (f : Bool) : (setVF s f).waiting = s.waiting := rfl
@[simp] theorem setVF_kprev (s : State) (f : Bool) : (setVF s f).kprev = s.kprev := rfl
@[simp] theorem setVF_rndIndex (s : State) (f : Bool) : (setVF s f).rndIndex = s.rndIndex := rfl

/-! ### `writeResultFlag` -/

@[simp] theorem writeResultFlag_cfg (s : State) (x : RegIdx) (r : Byte) (f : Bool) : (writeResultFlag s x r f).cfg = s.cfg := rfl
@[simp] theorem writeResultFlag_v (s : State) (x : RegIdx) (r : Byte) (f : Bool) : (writeResultFlag s x r f).v = (s.v.set x.val r).set 15 (flagByte f) := rfl
@[simp] theorem writeResultFlag_i (s : State) (x : RegIdx) (r : Byte) (f : Bool) : (writeResultFlag s x r f).i = s.i := rfl
@[simp] theorem writeResultFlag_pc (s : State) (x : RegIdx) (r : Byte) (f : Bool) : (writeResultFlag s x r f).pc = s.pc := rfl
@[simp] theorem writeResultFlag_stack (s : State) (x : RegIdx) (r : Byte) (f : Bool) : (writeResultFlag s x r f).stack = s.stack := rfl
@[simp] theorem writeResultFlag_sp (s : State) (x : RegIdx) (r : Byte) (f : Bool) : (writeResultFlag s x r f).sp = s.sp := rfl
@[simp] theorem writeResultFlag_dt (s : State) (x : RegIdx) (r : Byte) (f : Bool) : (writeResultFlag s x r f).dt = s.dt := rfl
@[simp] theorem writeResultFlag_st (s : State) (x : RegIdx) (r : Byte) (f : Bool) : (writeResultFlag s x r f).st = s.st := rfl
@[simp] theorem writeResultFlag_mem (s : State) (x : RegIdx) (r : Byte) (f : Bool) : (writeResultFlag s x r f).mem = s.mem := rfl
@[simp] theorem writeResultFlag_fb (s : State) (x : RegIdx) (r : Byte) (f : Bool) : (writeResultFlag s x r f).fb = s.fb := rfl
@[simp] theorem writeResultFlag_drawFlag (s : State) (x : RegIdx) (r : Byte) (f : Bool) : (writeResultFlag s x r f).drawFlag = s.drawFlag := rfl
@[simp] theorem writeResultFlag_keys (s : State) (x : RegIdx) (r : Byte) (f : Bool) : (writeResultFlag s x r f).keys = s.keys := rfl
@[simp] theorem writeResultFlag_waiting (s : State) (x : RegIdx) (r : Byte) (f : Bool) : (writeResultFlag s x r f).waiting = s.waiting := rfl
@[simp] theorem writeResultFlag_kprev (s : State) (x : RegIdx) (r : Byte) (f : Bool) : (writeResultFlag s x r f).kprev = s.kprev := rfl
@[simp] theorem writeResultFlag_rndIndex (s : State) (x : RegIdx) (r : Byte) (f : Bool) : (writeResultFlag s x r f).rndIndex = s.rndIndex := rfl

/-! ### `setByte` -/

@[simp] theorem setByte_cfg (s : State) (a : Nat) (b : Byte) : (setByte s a b).cfg = s.cfg := rfl
@[simp] theorem setByte_v (s : State) (a : Nat) (b : Byte) : (setByte s a b).v = s.v := rfl
@[simp] theorem setByte_i (s : State) (a : Nat) (b : Byte) : (setByte s a b).i = s.i := rfl
@[simp] theorem setByte_pc (s : State) (a : Nat) (b : Byte) : (setByte s a b).pc = s.pc := rfl
@[simp] theorem setByte_stack (s : State) (a : Nat) (b : Byte) : (setByte s a b).stack = s.stack := rfl
@[simp] theorem setByte_sp (s : State) (a : Nat) (b : Byte) : (setByte s a b).sp = s.sp := rfl
@[simp] theorem setByte_dt (s : State) (a : Nat) (b : Byte) : (setByte s a b).dt = s.dt := rfl
@[simp] theorem setByte_st (s : State) (a : Nat) (b : Byte) : (setByte s a b).st = s.st := rfl
@[simp] theorem setByte_mem (s : State) (a : Nat) (b : Byte) : (setByte s a b).mem = memStore s.cfg s.mem a b := rfl
@[simp] theorem setByte_fb (s : State) (a : Nat) (b : Byte) : (setByte s a b).fb = s.fb := rfl
@[simp] theorem setByte_drawFlag (s : State) (a : Nat) (b : Byte) : (setByte s a b).drawFlag = s.drawFlag := rfl
@[simp] theorem setByte_keys (s : State) (a : Nat) (b : Byte) : (setByte s a b).keys = s.keys := rfl
@[simp] theorem setByte_waiting (s : State) (a : Nat) (b : Byte) : (setByte s a b).waiting = s.waiting := rfl
@[simp] theorem setByte_kprev (s : State) (a : Nat) (b : Byte) : (setByte s a b).kprev = s.kprev := rfl
@[simp] theorem setByte_rndIndex (s : State) (a : Nat) (b : Byte) : (setByte s a b).rndIndex = s.rndIndex := rfl

/-! ### `jumpTo` -/

@[simp] theorem jumpTo_cfg (s : State) (w : Word) : (jumpTo s w).cfg = s.cfg := rfl
@[simp] theorem jumpTo_v (s : State) (w : Word) : (jumpTo s w).v = s.v := rfl
@[simp] theorem jumpTo_i (s : State) (w : Word) : (jumpTo s w).i = s.i := rfl
@[simp] theorem jumpTo_pc (s : State) (w : Word) : (jumpTo s w).pc = w := rfl
@[simp] theorem jumpTo_stack (s : State) (w : Word) : (jumpTo s w).stack = s.stack := rfl
@[simp] theorem jumpTo_sp (s : State) (w : Word) : (jumpTo s w).sp = s.sp := rfl
@[simp] theorem jumpTo_dt (s : State) (w : Word) : (jumpTo s w).dt = s.dt := rfl
@[simp] theorem jumpTo_st (s : State) (w : Word) : (jumpTo s w).st = s.st := rfl
@[simp] theorem jumpTo_mem (s : State) (w : Word) : (jumpTo s w).mem = s.mem := rfl
@[simp] theorem jumpTo_fb (s : State) (w : Word) : (jumpTo s w).fb = s.fb := rfl
@[simp] theorem jumpTo_drawFlag (s : State) (w : Word) : (jumpTo s w).drawFlag = s.drawFlag := rfl
@[simp] theorem jumpTo_keys (s : State) (w : Word) : (jumpTo s w).keys = s.keys := rfl
@[simp] theorem jumpTo_waiting (s : State) (w : Word) : (jumpTo s w).waiting = s.waiting := rfl
@[simp] theorem jumpTo_kprev (s : State) (w : Word) : (jumpTo s w).kprev = s.kprev := rfl
@[simp] theorem jumpTo_rndIndex (s : State) (w : Word) : (jumpTo s w).rndIndex = s.rndIndex := rfl

/-! ### `advancePc` -/

@[simp] theorem advancePc_cfg (s : State) : (advancePc s).cfg = s.cfg := rfl
@[simp] theorem advancePc_v (s : State) : (advancePc s).v = s.v := rfl
@[simp] theorem advancePc_i (s : State) : (advancePc s).i = s.i := rfl
@[simp] theorem advancePc_pc (s : State) : (advancePc s).pc = s.pc + 2 := rfl
@[simp] theorem advancePc_stack (s : State) : (advancePc s).stack = s.stack := rfl
@[simp] theorem advancePc_sp (s : State) : (advancePc s).sp = s.sp := rfl
@[simp] theorem advancePc_dt (s : State) : (advancePc s).dt = s.dt := rfl
@[simp] theorem advancePc_st (s : State) : (advancePc s).st = s.st := rfl
@[simp] theorem advancePc_mem (s : State) : (advancePc s).mem = s.mem := rfl
@[simp] theorem advancePc_fb (s : State) : (advancePc s).fb = s.fb := rfl
@[simp] theorem advancePc_drawFlag (s : State) : (advancePc s).drawFlag = s.drawFlag := rfl
@[simp] theorem advancePc_keys (s : State) : (advancePc s).keys = s.keys := rfl
@[simp] theorem advancePc_waiting (s : State) : (advancePc s).waiting = s.waiting := rfl
@[simp] theorem advancePc_kprev (s : State) : (advancePc s).kprev = s.kprev := rfl
@[simp] theorem advancePc_rndIndex (s : State) : (advancePc s).rndIndex = s.rndIndex := rfl

/-! ### `pushReturn` -/

@[simp] theorem pushReturn_cfg (s : State) (h : s.sp.val < 16) : (pushReturn s h).cfg = s.cfg := rfl
@[simp] theorem pushReturn_v (s : State) (h : s.sp.val < 16) : (pushReturn s h).v = s.v := rfl
@[simp] theorem pushReturn_i (s : State) (h : s.sp.val < 16) : (pushReturn s h).i = s.i := rfl
@[simp] theorem pushReturn_pc (s : State) (h : s.sp.val < 16) : (pushReturn s h).pc = s.pc := rfl
@[simp] theorem pushReturn_stack (s : State) (h : s.sp.val < 16) : (pushReturn s h).stack = s.stack.set s.sp.val s.pc h := rfl
@[simp] theorem pushReturn_sp (s : State) (h : s.sp.val < 16) : (pushReturn s h).sp = ⟨s.sp.val + 1, by omega⟩ := rfl
@[simp] theorem pushReturn_dt (s : State) (h : s.sp.val < 16) : (pushReturn s h).dt = s.dt := rfl
@[simp] theorem pushReturn_st (s : State) (h : s.sp.val < 16) : (pushReturn s h).st = s.st := rfl
@[simp] theorem pushReturn_mem (s : State) (h : s.sp.val < 16) : (pushReturn s h).mem = s.mem := rfl
@[simp] theorem pushReturn_fb (s : State) (h : s.sp.val < 16) : (pushReturn s h).fb = s.fb := rfl
@[simp] theorem pushReturn_drawFlag (s : State) (h : s.sp.val < 16) : (pushReturn s h).drawFlag = s.drawFlag := rfl
@[simp] theorem pushReturn_keys (s : State) (h : s.sp.val < 16) : (pushReturn s h).keys = s.keys := rfl
@[simp] theorem pushReturn_waiting (s : State) (h : s.sp.val < 16) : (pushReturn s h).waiting = s.waiting := rfl
@[simp] theorem pushReturn_kprev (s : State) (h : s.sp.val < 16) : (pushReturn s h).kprev = s.kprev := rfl
@[simp] theorem pushReturn_rndIndex (s : State) (h : s.sp.val < 16) : (pushReturn s h).rndIndex = s.rndIndex := rfl

/-! ### `popReturn` -/

@[simp] theorem popReturn_cfg (s : State) (h : 0 < s.sp.val) : (popReturn s h).cfg = s.cfg := rfl
@[simp] theorem popReturn_v (s : State) (h : 0 < s.sp.val) : (popReturn s h).v = s.v := rfl
@[simp] theorem popReturn_i (s : State) (h : 0 < s.sp.val) : (popReturn s h).i = s.i := rfl
@[simp] theorem popReturn_pc (s : State) (h : 0 < s.sp.val) : (popReturn s h).pc = s.stack[s.sp.val - 1]'(by omega) := rfl
@[simp] theorem popReturn_stack (s : State) (h : 0 < s.sp.val) : (popReturn s h).stack = s.stack := rfl
@[simp] theorem popReturn_sp (s : State) (h : 0 < s.sp.val) : (popReturn s h).sp = ⟨s.sp.val - 1, by omega⟩ := rfl
@[simp] theorem popReturn_dt (s : State) (h : 0 < s.sp.val) : (popReturn s h).dt = s.dt := rfl
@[simp] theorem popReturn_st (s : State) (h : 0 < s.sp.val) : (popReturn s h).st = s.st := rfl
@[simp] theorem popReturn_mem (s : State) (h : 0 < s.sp.val) : (popReturn s h).mem = s.mem := rfl
@[simp] theorem popReturn_fb (s : State) (h : 0 < s.sp.val) : (popReturn s h).fb = s.fb := rfl
@[simp] theorem popReturn_drawFlag (s : State) (h : 0 < s.sp.val) : (popReturn s h).drawFlag = s.drawFlag := rfl
@[simp] theorem popReturn_keys (s : State) (h : 0 < s.sp.val) : (popReturn s h).keys = s.keys := rfl
@[simp] theorem popReturn_waiting (s : State) (h : 0 < s.sp.val) : (popReturn s h).waiting = s.waiting := rfl
@[simp] theorem popReturn_kprev (s : State) (h : 0 < s.sp.val) : (popReturn s h).kprev = s.kprev := rfl
@[simp] theorem popReturn_rndIndex (s : State) (h : 0 < s.sp.val) : (popReturn s h).rndIndex = s.rndIndex := rfl

/-! ### `enter` -/

@[simp] theorem enter_cfg (op : Operation) (s : State) : (enter op s).cfg = s.cfg := rfl
@[simp] theorem enter_v (op : Operation) (s : State) : (enter op s).v = s.v := rfl
@[simp] theorem enter_i (op : Operation) (s : State) : (enter op s).i = s.i := rfl
@[simp] theorem enter_pc (op : Operation) (s : State) : (enter op s).pc = s.pc + 2 := rfl
@[simp] theorem enter_stack (op : Operation) (s : State) : (enter op s).stack = s.stack := rfl
@[simp] theorem enter_sp (op : Operation) (s : State) : (enter op s).sp = s.sp := rfl
@[simp] theorem enter_dt (op : Operation) (s : State) : (enter op s).dt = s.dt := rfl
@[simp] theorem enter_st (op : Operation) (s : State) : (enter op s).st = s.st := rfl
@[simp] theorem enter_mem (op : Operation) (s : State) : (enter op s).mem = s.mem := rfl
@[simp] theorem enter_fb (op : Operation) (s : State) : (enter op s).fb = s.fb := rfl
@[simp] theorem enter_drawFlag (op : Operation) (s : State) : (enter op s).drawFlag = s.drawFlag := rfl
@[simp] theorem enter_keys (op : Operation) (s : State) : (enter op s).keys = s.keys := rfl
@[simp] theorem enter_waiting (op : Operation) (s : State) : (enter op s).waiting = (s.waiting && isKeyWait op) := rfl
@[simp] theorem enter_kprev (op : Operation) (s : State) : (enter op s).kprev = s.kprev := rfl
@[simp] theorem enter_rndIndex (op : Operation) (s : State) : (enter op s).rndIndex = s.rndIndex := rfl

/-! ### `tick` -/

@[simp] theorem tick_cfg (s : State) : (tick s).cfg = s.cfg := rfl
@[simp] theorem tick_v (s : State) : (tick s).v = s.v := rfl
@[simp] theorem tick_i (s : State) : (tick s).i = s.i := rfl
@[simp] theorem tick_pc (s : State) : (tick s).pc = s.pc := rfl
@[simp] theorem tick_stack (s : State) : (tick s).stack = s.stack := rfl
@[simp] theorem tick_sp (s : State) : (tick s).sp = s.sp := rfl
@[simp] theorem tick_dt (s : State) : (tick s).dt = countDown s.dt := rfl
@[simp] theorem tick_st (s : State) : (tick s).st = countDown s.st := rfl
@[simp] theorem tick_mem (s : State) : (tick s).mem = s.mem := rfl
@[simp] theorem tick_fb (s : State) : (tick s).fb = s.fb := rfl
@[simp] theorem tick_drawFlag (s : State) : (tick s).drawFlag = s.drawFlag := rfl
@[simp] theorem tick_keys (s : State) : (tick s).keys = s.keys := rfl
@[simp] theorem tick_waiting (s : State) : (tick s).waiting = s.waiting := rfl
@[simp] theorem tick_kprev (s : State) : (tick s).kprev = s.kprev := rfl
@[simp] theorem tick_rndIndex (s : State) : (tick s).rndIndex = s.rndIndex := rfl

/-! ### `setIndex` -/

@[simp] theorem setIndex_cfg (s : State) (w : Word) : (setIndex s w).cfg = s.cfg := rfl
@[simp] theorem setIndex_v (s : State) (w : Word) : (setIndex s w).v = s.v := rfl
@[simp] theorem setIndex_i (s : State) (w : Word) : (setIndex s w).i = w := rfl
@[simp] theorem setIndex_pc (s : State) (w : Word) : (setIndex s w).pc = s.pc := rfl
@[simp] theorem setIndex_stack (s : State) (w : Word) : (setIndex s w).stack = s.stack := rfl
@[simp] theorem setIndex_sp (s : State) (w : Word) : (setIndex s w).sp = s.sp := rfl
@[simp] theorem setIndex_dt (s : State) (w : Word) : (setIndex s w).dt = s.dt := rfl
@[simp] theorem setIndex_st (s : State) (w : Word) : (setIndex s w).st = s.st := rfl
@[simp] theorem setIndex_mem (s : State) (w : Word) : (setIndex s w).mem = s.mem := rfl
@[simp] theorem setIndex_fb (s : State) (w : Word) : (setIndex s w).fb = s.fb := rfl
@[simp] theorem setIndex_drawFlag (s : State) (w : Word) : (setIndex s w).drawFlag = s.drawFlag := rfl
@[simp] theorem setIndex_keys (s : State) (w : Word) : (setIndex s w).keys = s.keys := rfl
@[simp] theorem setIndex_waiting (s : State) (w : Word) : (setIndex s w).waiting = s.waiting := rfl
@[simp] theorem setIndex_kprev (s : State) (w : Word) : (setIndex s w).kprev = s.kprev := rfl
@[simp] theorem setIndex_rndIndex (s : State) (w : Word) : (setIndex s w).rndIndex = s.rndIndex := rfl

/-! ### `useByte` -/

@[simp] theorem useByte_cfg (s : State) : (useByte s).cfg = s.cfg := rfl
@[simp] theorem useByte_v (s : State) : (useByte s).v = s.v := rfl
@[simp] theorem useByte_i (s : State) : (useByte s).i = s.i := rfl
@[simp] theorem useByte_pc (s : State) : (useByte s).pc = s.pc := rfl
@[simp] theorem useByte_stack (s : State) : (useByte s).stack = s.stack := rfl
@[simp] theorem useByte_sp (s : State) : (useByte s).sp = s.sp := rfl
@[simp] theorem useByte_dt (s : State) : (useByte s).dt = s.dt := rfl
@[simp] theorem useByte_st (s : State) : (useByte s).st = s.st := rfl
@[simp] theorem useByte_mem (s : State) : (useByte s).mem = s.mem := rfl
@[simp] theorem useByte_fb (s : State) : (useByte s).fb = s.fb := rfl
@[simp] theorem useByte_drawFlag (s : State) : (useByte s).drawFlag = s.drawFlag := rfl
@[simp] theorem useByte_keys (s : State) : (useByte s).keys = s.keys := rfl
@[simp] theorem useByte_waiting (s : State) : (useByte s).waiting = s.waiting := rfl
@[simp] theorem useByte_kprev (s : State) : (useByte s).kprev = s.kprev := rfl
@[simp] theorem useByte_rndIndex (s : State) : (useByte s).rndIndex = s.rndIndex + 1 := rfl

/-! ### `loadRegs` -/

@[simp] theorem loadRegs_cfg (s : State) (base : Nat) (x : RegIdx) : (loadRegs s base x).cfg = s.cfg := rfl
@[simp] theorem loadRegs_v (s : State) (base : Nat) (x : RegIdx) : (loadRegs s base x).v = Vector.ofFn fun j : Fin 16 => if j.val ≤ x.val then byteAt s (base + j.val) else s.v[j] := rfl
@[simp] theorem loadRegs_i (s : State) (base : Nat) (x : RegIdx) : (loadRegs s base x).i = s.i := rfl
@[simp] theorem loadRegs_pc (s : State) (base : Nat) (x : RegIdx) : (loadRegs s base x).pc = s.pc := rfl
@[simp] theorem loadRegs_stack (s : State) (base : Nat) (x : RegIdx) : (loadRegs s base x).stack = s.stack := rfl
@[simp] theorem loadRegs_sp (s : State) (base : Nat) (x : RegIdx) : (loadRegs s base x).sp = s.sp := rfl
@[simp] theorem loadRegs_dt (s : State) (base : Nat) (x : RegIdx) : (loadRegs s base x).dt = s.dt := rfl
@[simp] theorem loadRegs_st (s : State) (base : Nat) (x : RegIdx) : (loadRegs s base x).st = s.st := rfl
@[simp] theorem loadRegs_mem (s : State) (base : Nat) (x : RegIdx) : (loadRegs s base x).mem = s.mem := rfl
@[simp] theorem loadRegs_fb (s : State) (base : Nat) (x : RegIdx) : (loadRegs s base x).fb = s.fb := rfl
@[simp] theorem loadRegs_drawFlag (s : State) (base : Nat) (x : RegIdx) : (loadRegs s base x).drawFlag = s.drawFlag := rfl
@[simp] theorem loadRegs_keys (s : State) (base : Nat) (x : RegIdx) : (loadRegs s base x).keys = s.keys := rfl
@[simp] theorem loadRegs_waiting (s : State) (base : Nat) (x : RegIdx) : (loadRegs s base x).waiting = s.waiting := rfl
@[simp] theorem loadRegs_kprev (s : State) (base : Nat) (x : RegIdx) : (loadRegs s base x).kprev = s.kprev := rfl
@[simp] theorem loadRegs_rndIndex (s : State) (base : Nat) (x : RegIdx) : (loadRegs s base x).rndIndex = s.rndIndex := rfl

/-! ### `drawSprite` -/

@[simp] theorem drawSprite_cfg (s : State) (x0 y0 : Nat) (bs : List Byte) : (drawSprite s x0 y0 bs).cfg = s.cfg := rfl
@[simp] theorem drawSprite_v (s : State) (x0 y0 : Nat) (bs : List Byte) : (drawSprite s x0 y0 bs).v = s.v.set 15 (flagByte (plotCells s.fb (spriteCells s.cfg x0 y0 0 bs)).2) := rfl
@[simp] theorem drawSprite_i (s : State) (x0 y0 : Nat) (bs : List Byte) : (drawSprite s x0 y0 bs).i = s.i := rfl
@[simp] theorem drawSprite_pc (s : State) (x0 y0 : Nat) (bs : List Byte) : (drawSprite s x0 y0 bs).pc = s.pc := rfl
@[simp] theorem drawSprite_stack (s : State) (x0 y0 : Nat) (bs : List Byte) : (drawSprite s x0 y0 bs).stack = s.stack := rfl
@[simp] theorem drawSprite_sp (s : State) (x0 y0 : Nat) (bs : List Byte) : (drawSprite s x0 y0 bs).sp = s.sp := rfl
@[simp] theorem drawSprite_dt (s : State) (x0 y0 : Nat) (bs : List Byte) : (drawSprite s x0 y0 bs).dt = s.dt := rfl
@[simp] theorem drawSprite_st (s : State) (x0 y0 : Nat) (bs : List Byte) : (drawSprite s x0 y0 bs).st = s.st := rfl
@[simp] theorem drawSprite_mem (s : State) (x0 y0 : Nat) (bs : List Byte) : (drawSprite s x0 y0 bs).mem = s.mem := rfl
@[simp] theorem drawSprite_fb (s : State) (x0 y0 : Nat) (bs : List Byte) : (drawSprite s x0 y0 bs).fb = (plotCells s.fb (spriteCells s.cfg x0 y0 0 bs)).1 := rfl
@[simp] theorem drawSprite_drawFlag (s : State) (x0 y0 : Nat) (bs : List Byte) : (drawSprite s x0 y0 bs).drawFlag = true := rfl
@[simp] theorem drawSprite_keys (s : State) (x0 y0 : Nat) (bs : List Byte) : (drawSprite s x0 y0 bs).keys = s.keys := rfl
@[simp] theorem drawSprite_waiting (s : State) (x0 y0 : Nat) (bs : List Byte) : (drawSprite s x0 y0 bs).waiting = s.waiting := rfl
@[simp] theorem drawSprite_kprev (s : State) (x0 y0 : Nat) (bs : List Byte) : (drawSprite s x0 y0 bs).kprev = s.kprev := rfl
@[simp] theorem drawSprite_rndIndex (s : State) (x0 y0 : Nat) (bs : List Byte) : (drawSprite s x0 y0 bs).rndIndex = s.rndIndex := rfl

/-! ### `clearScreen` -/

@[simp] theorem clearScreen_cfg (s : State) : (clearScreen s).cfg = s.cfg := rfl
@[simp] theorem clearScreen_v (s : State) : (clearScreen s).v = s.v := rfl
@[simp] theorem clearScreen_i (s : State) : (clearScreen s).i = s.i := rfl
@[simp] theorem clearScreen_pc (s : State) : (clearScreen s).pc = s.pc := rfl
@[simp] theorem clearScreen_stack (s : State) : (clearScreen s).stack = s.stack := rfl
@[simp] theorem clearScreen_sp (s : State) : (clearScreen s).sp = s.sp := rfl
@[simp] theorem clearScreen_dt (s : State) : (clearScreen s).dt = s.dt := rfl
@[simp] theorem clearScreen_st (s : State) : (clearScreen s).st = s.st := rfl
@[simp] theorem clearScreen_mem (s : State) : (clearScreen s).mem = s.mem := rfl
@[simp] theorem clearScreen_fb (s : State) : (clearScreen s).fb = List.replicate (s.cfg.fbW * s.cfg.fbH) false := rfl
@[simp] theorem clearScreen_drawFlag (s : State) : (clearScreen s).drawFlag = true := rfl
@[simp] theorem clearScreen_keys (s : State) : (clearScreen s).keys = s.keys := rfl
@[simp] theorem clearScreen_waiting (s : State) : (clearScreen s).waiting = s.waiting := rfl
@[simp] theorem clearScreen_kprev (s : State) : (clearScreen s).kprev = s.kprev := rfl
@[simp] theorem clearScreen_rndIndex (s : State) : (clearScreen s).rndIndex = s.rndIndex := rfl

/-! ### `awaitKey` -/

@[simp] theorem awaitKey_cfg (s : State) : (awaitKey s).cfg = s.cfg := rfl
@[simp] theorem awaitKey_v (s : State) : (awaitKey s).v = s.v := rfl
@[simp] theorem awaitKey_i (s : State) : (awaitKey s).i = s.i := rfl
@[simp] theorem awaitKey_pc (s : State) : (awaitKey s).pc = s.pc - 2 := rfl
@[simp] theorem awaitKey_stack (s : State) : (awaitKey s).stack = s.stack := rfl
@[simp] theorem awaitKey_sp (s : State) : (awaitKey s).sp = s.sp := rfl
@[simp] theorem awaitKey_dt (s : State) : (awaitKey s).dt = s.dt := rfl
@[simp] theorem awaitKey_st (s : State) : (awaitKey s).st = s.st := rfl
@[simp] theorem awaitKey_mem (s : State) : (awaitKey s).mem = s.mem := rfl
@[simp] theorem awaitKey_fb (s : State) : (awaitKey s).fb = s.fb := rfl
@[simp] theorem awaitKey_drawFlag (s : State) : (awaitKey s).drawFlag = s.drawFlag := rfl
@[simp] theorem awaitKey_keys (s : State) : (awaitKey s).keys = s.keys := rfl
@[simp] theorem awaitKey_waiting (s : State) : (awaitKey s).waiting = true := rfl
@[simp] theorem awaitKey_kprev (s : State) : (awaitKey s).kprev = s.keys := rfl
@[simp] theorem awaitKey_rndIndex (s : State) : (awaitKey s).rndIndex = s.rndIndex := rfl

/-! ### `takeKey` -/

@[simp] theorem takeKey_cfg (s : State) (x j : RegIdx) : (takeKey s x j).cfg = s.cfg := rfl
@[simp] theorem takeKey_v (s : State) (x j : RegIdx) : (takeKey s x j).v = s.v.set x.val (BitVec.ofNat 8 j.val) := rfl
@[simp] theorem takeKey_i (s : State) (x j : RegIdx) : (takeKey s x j).i = s.i := rfl
@[simp] theorem takeKey_pc (s : State) (x j : RegIdx) : (takeKey s x j).pc = s.pc := rfl
@[simp] theorem takeKey_stack (s : State) (x j : RegIdx) : (takeKey s x j).stack = s.stack := rfl
@[simp] theorem takeKey_sp (s : State) (x j : RegIdx) : (takeKey s x j).sp = s.sp := rfl
@[simp] theorem takeKey_dt (s : State) (x j : RegIdx) : (takeKey s x j).dt = s.dt := rfl
@[simp] theorem takeKey_st (s : State) (x j : RegIdx) : (takeKey s x j).st = s.st := rfl
@[simp] theorem takeKey_mem (s : State) (x j : RegIdx) : (takeKey s x j).mem = s.mem := rfl
@[simp] theorem takeKey_fb (s : State) (x j : RegIdx) : (takeKey s x j).fb = s.fb := rfl
@[simp] theorem takeKey_drawFlag (s : State) (x j : RegIdx) : (takeKey s x j).drawFlag = s.drawFlag := rfl
@[simp] theorem takeKey_keys (s : State) (x j : RegIdx) : (takeKey s x j).keys = s.keys := rfl
@[simp] theorem takeKey_waiting (s : State) (x j : RegIdx) : (takeKey s x j).waiting = false := rfl
@[simp] theorem takeKey_kprev (s : State) (x j : RegIdx) : (takeKey s x j).kprev = s.keys := rfl
@[simp] theorem takeKey_rndIndex (s : State) (x j : RegIdx) : (takeKey s x j).rndIndex = s.rndIndex := rfl

/-! ### `setKeys` -/

@[simp] theorem setKeys_cfg (k : BitVec 16) (s : State) : (setKeys k s).cfg = s.cfg := rfl
@[simp] theorem setKeys_v (k : BitVec 16) (s : State) : (setKeys k s).v = s.v := rfl
@[simp] theorem setKeys_i (k : BitVec 16) (s : State) : (setKeys k s).i = s.i := rfl
@[simp] theorem setKeys_pc (k : BitVec 16) (s : State) : (setKeys k s).pc = s.pc := rfl
@[simp] theorem setKeys_stack (k : BitVec 16) (s : State) : (setKeys k s).stack = s.stack := rfl
@[simp] theorem setKeys_sp (k : BitVec 16) (s : State) : (setKeys k s).sp = s.sp := rfl
@[simp] theorem setKeys_dt (k : BitVec 16) (s : State) : (setKeys k s).dt = s.dt := rfl
@[simp] theorem setKeys_st (k : BitVec 16) (s : State) : (setKeys k s).st = s.st := rfl
@[simp] theorem setKeys_mem (k : BitVec 16) (s : State) : (setKeys k s).mem = s.mem := rfl
@[simp] theorem setKeys_fb (k : BitVec 16) (s : State) : (setKeys k s).fb = s.fb := rfl
@[simp] theorem setKeys_drawFlag (k : BitVec 16) (s : State) : (setKeys k s).drawFlag = s.drawFlag := rfl
@[simp] theorem setKeys_keys (k : BitVec 16) (s : State) : (setKeys k s).keys = k := rfl
@[simp] theorem setKeys_waiting (k : BitVec 16) (s : State) : (setKeys k s).waiting = s.waiting := rfl
@[simp] theorem setKeys_kprev (k : BitVec 16) (s : State) : (setKeys k s).kprev = s.kprev := rfl
@[simp] theorem setKeys_rndIndex (k : BitVec 16) (s : State) : (setKeys k s).rndIndex = s.rndIndex := rfl

/-! ### `ackFrame` -/

@[simp] theorem ackFrame_cfg (s : State) : (ackFrame s).cfg = s.cfg := rfl
@[simp] theorem ackFrame_v (s : State) : (ackFrame s).v = s.v := rfl
@[simp] theorem ackFrame_i (s : State) : (ackFrame s).i = s.i := rfl
@[simp] theorem ackFrame_pc (s : State) : (ackFrame s).pc = s.pc := rfl
@[simp] theorem ackFrame_stack (s : State) : (ackFrame s).stack = s.stack := rfl
@[simp] theorem ackFrame_sp (s : State) : (ackFrame s).sp = s.sp := rfl
@[simp] theorem ackFrame_dt (s : State) : (ackFrame s).dt = s.dt := rfl
@[simp] theorem ackFrame_st (s : State) : (ackFrame s).st = s.st := rfl
@[simp] theorem ackFrame_mem (s : State) : (ackFrame s).mem = s.mem := rfl
@[simp] theorem ackFrame_fb (s : State) : (ackFrame s).fb = s.fb := rfl
@[simp] theorem ackFrame_drawFlag (s : State) : (ackFrame s).drawFlag = false := rfl
@[simp] theorem ackFrame_keys (s : State) : (ackFrame s).keys = s.keys := rfl
@[simp] theorem ackFrame_waiting (s : State) : (ackFrame s).waiting = s.waiting := rfl
@[simp] theorem ackFrame_kprev (s : State) : (ackFrame s).kprev = s.kprev := rfl
@[simp] theorem ackFrame_rndIndex (s : State) : (ackFrame s).rndIndex = s.rndIndex := rfl

/-! ### `skipIf`, `finish`: one of two states -/

@[simp] theorem skipIf_cfg (s : State) (c : Bool) : (skipIf s c).cfg = s.cfg := by cases c <;> rfl
@[simp] theorem skipIf_v (s : State) (c : Bool) : (skipIf s c).v = s.v := by cases c <;> rfl
@[simp] theorem skipIf_i (s : State) (c : Bool) : (skipIf s c).i = s.i := by cases c <;> rfl
@[simp] theorem skipIf_pc (s : State) (c : Bool) : (skipIf s c).pc = if c then s.pc + 2 else s.pc := by
  cases c <;> rfl
@[simp] theorem skipIf_stack (s : State) (c : Bool) : (skipIf s c).stack = s.stack := by cases c <;> rfl
@[simp] theorem skipIf_sp (s : State) (c : Bool) : (skipIf s c).sp = s.sp := by cases c <;> rfl
@[simp] theorem skipIf_dt (s : State) (c : Bool) : (skipIf s c).dt = s.dt := by cases c <;> rfl
@[simp] theorem skipIf_st (s : State) (c : Bool) : (skipIf s c).st = s.st := by cases c <;> rfl
@[simp] theorem skipIf_mem (s : State) (c : Bool) : (skipIf s c).mem = s.mem := by cases c <;> rfl
@[simp] theorem skipIf_fb (s : State) (c : Bool) : (skipIf s c).fb = s.fb := by cases c <;> rfl
@[simp] theorem skipIf_drawFlag (s : State) (c : Bool) : (skipIf s c).drawFlag = s.drawFlag := by cases c <;> rfl
@[simp] theorem skipIf_keys (s : State) (c : Bool) : (skipIf s c).keys = s.keys := by cases c <;> rfl
@[simp] theorem skipIf_waiting (s : State) (c : Bool) : (skipIf s c).waiting = s.waiting := by cases c <;> rfl
@[simp] theorem skipIf_kprev (s : State) (c : Bool) : (skipIf s c).kprev = s.kprev := by cases c <;> rfl
@[simp] theorem skipIf_rndIndex (s : State) (c : Bool) : (skipIf s c).rndIndex = s.rndIndex := by cases c <;> rfl

@[simp] theorem finish_cfg (s : State) : (finish s).cfg = s.cfg := by unfold finish; split <;> rfl
@[simp] theorem finish_v (s : State) : (finish s).v = s.v := by unfold finish; split <;> rfl
@[simp] theorem finish_i (s : State) : (finish s).i = s.i := by unfold finish; split <;> rfl
@[simp] theorem finish_pc (s : State) : (finish s).pc = s.pc := by unfold finish; split <;> rfl
@[simp] theorem finish_stack (s : State) : (finish s).stack = s.stack := by unfold finish; split <;> rfl
@[simp] theorem finish_sp (s : State) : (finish s).sp = s.sp := by unfold finish; split <;> rfl
@[simp] theorem finish_dt (s : State) : (finish s).dt = if s.waiting then s.dt else countDown s.dt := by
  unfold finish; split <;> simp_all
@[simp] theorem finish_st (s : State) : (finish s).st = if s.waiting then s.st else countDown s.st := by
  unfold finish; split <;> simp_all
@[simp] theorem finish_mem (s : State) : (finish s).mem = s.mem := by unfold finish; split <;> rfl
@[simp] theorem finish_fb (s : State) : (finish s).fb = s.fb := by unfold finish; split <;> rfl
@[simp] theorem finish_drawFlag (s : State) : (finish s).drawFlag = s.drawFlag := by unfold finish; split <;> rfl
@[simp] theorem finish_keys (s : State) : (finish s).keys = s.keys := by unfold finish; split <;> rfl
@[simp] theorem finish_waiting (s : State) : (finish s).waiting = s.waiting := by unfold finish; split <;> rfl
@[simp] theorem finish_kprev (s : State) : (finish s).kprev = s.kprev := by unfold finish; split <;> rfl
@[simp] theorem finish_rndIndex (s : State) : (finish s).rndIndex = s.rndIndex := by unfold finish; split <;> rfl

/-! ### `storeBytes`: memory alone -/

@[simp] theorem storeBytes_cfg (s : State) (a : Nat) (bs : List Byte) : (storeBytes s a bs).cfg = s.cfg := by
  induction bs generalizing s a with
  | nil => rfl
  | cons b bs ih => simp [storeBytes, ih]
@[simp] theorem storeBytes_v (s : State) (a : Nat) (bs : List Byte) : (storeBytes s a bs).v = s.v := by
  induction bs generalizing s a with
  | nil => rfl
  | cons b bs ih => simp [storeBytes, ih]
@[simp] theorem storeBytes_i (s : State) (a : Nat) (bs : List Byte) : (storeBytes s a bs).i = s.i := by
  induction bs generalizing s a with
  | nil => rfl
  | cons b bs ih => simp [storeBytes, ih]
@[simp] theorem storeBytes_pc (s : State) (a : Nat) (bs : List Byte) : (storeBytes s a bs).pc = s.pc := by
  induction bs generalizing s a with
  | nil => rfl
  | cons b bs ih => simp [storeBytes, ih]
@[simp] theorem storeBytes_stack (s : State) (a : Nat) (bs : List Byte) : (storeBytes s a bs).stack = s.stack := by
  induction bs generalizing s a with
  | nil => rfl
  | cons b bs ih => simp [storeBytes, ih]
@[simp] theorem storeBytes_sp (s : State) (a : Nat) (bs : List Byte) : (storeBytes s a bs).sp = s.sp := by
  induction bs generalizing s a with
  | nil => rfl
  | cons b bs ih => simp [storeBytes, ih]
@[simp] theorem storeBytes_dt (s : State) (a : Nat) (bs : List Byte) : (storeBytes s a bs).dt = s.dt := by
  induction bs generalizing s a with
  | nil => rfl
  | cons b bs ih => simp [storeBytes, ih]
@[simp] theorem storeBytes_st (s : State) (a : Nat) (bs : List Byte) : (storeBytes s a bs).st = s.st := by
  induction bs generalizing s a with
  | nil => rfl
  | cons b bs ih => simp [storeBytes, ih]
@[simp] theorem storeBytes_fb (s : State) (a : Nat) (bs : List Byte) : (storeBytes s a bs).fb = s.fb := by
  induction bs generalizing s a with
  | nil => rfl
  | cons b bs ih => simp [storeBytes, ih]
@[simp] theorem storeBytes_drawFlag (s : State) (a : Nat) (bs : List Byte) : (storeBytes s a bs).drawFlag = s.drawFlag := by
  induction bs generalizing s a with
  | nil => rfl
  | cons b bs ih => simp [storeBytes, ih]
@[simp] theorem storeBytes_keys (s : State) (a : Nat) (bs : List Byte) : (storeBytes s a bs).keys = s.keys := by
  induction bs generalizing s a with
  | nil => rfl
  | cons b bs ih => simp [storeBytes, ih]
@[simp] theorem storeBytes_waiting (s : State) (a : Nat) (bs : List Byte) : (storeBytes s a bs).waiting = s.waiting := by
  induction bs generalizing s a with
  | nil => rfl
  | cons b bs ih => simp [storeBytes, ih]
@[simp] theorem storeBytes_kprev (s : State) (a : Nat) (bs : List Byte) : (storeBytes s a bs).kprev = s.kprev := by
  induction bs generalizing s a with
  | nil => rfl
  | cons b bs ih => simp [storeBytes, ih]
@[simp] theorem storeBytes_rndIndex (s : State) (a : Nat) (bs : List Byte) : (storeBytes s a bs).rndIndex = s.rndIndex := by
  induction bs generalizing s a with
  | nil => rfl
  | cons b bs ih => simp [storeBytes, ih]

/-- `storeBytes` changes memory alone. -/
theorem storeBytes_eq (s : State) (a : Nat) (bs : List Byte) : storeBytes s a bs = { s with mem := (storeBytes s a bs).mem } := by
  induction bs generalizing s a with
  | nil => rfl
  | cons b bs ih => rw [storeBytes, ih]; rfl

end Sys2Proof.Machine
end

