-- ==== Sys2Proof/Laws/Memory.lean ====
section
/-! SUPPORT. Memory: a read after a write (20 R65), the canonical form kept by every operation, and equal readings
giving equal memories. -/

namespace Sys2Proof.Machine

/-! ### Reading after writing -/

theorem memLookup_memPut (m : Memory) (a b : Nat) (v : Byte) :
    memLookup (memPut m a v) b = if b = a then some v else memLookup m b := by
  induction m with
  | nil => simp [memPut, memLookup, eq_comm]
  | cons p m ih =>
    obtain ⟨c, w⟩ := p
    simp only [memPut]
    split <;> [skip; split] <;> simp only [memLookup, ih] <;> grind

theorem memLookup_memDrop (m : Memory) (a b : Nat) :
    memLookup (memDrop m a) b = if b = a then none else memLookup m b := by
  induction m with
  | nil => simp [memDrop, memLookup]
  | cons p m ih =>
    obtain ⟨c, w⟩ := p
    simp only [memDrop]
    split <;> simp only [memLookup, ih] <;> grind

/-- A byte read after a write: the byte written at its address, every other address as before. -/
theorem memCell_memStore (c : Config) (m : Memory) (a b : Nat) (v : Byte) :
    memCell c (memStore c m a v) b = if b = a ∧ a < 4096 then v else memCell c m b := by
  unfold memStore memCell
  split
  · grind
  · split
    · rw [memLookup_memDrop]; split <;> simp_all
    · rw [memLookup_memPut]; split <;> simp_all

@[simp] theorem byteAt_setByte (s : State) (a b : Nat) (v : Byte) :
    byteAt (setByte s a v) b = if b = a ∧ a < 4096 then v else byteAt s b :=
  memCell_memStore s.cfg s.mem a b v

/-- What every address reads as after a run of bytes is stored within memory. -/
theorem byteAt_storeBytes (s : State) (base : Nat) (bs : List Byte) (h : base + bs.length ≤ 4096) (a : Nat) :
    byteAt (storeBytes s base bs) a =
      if h' : base ≤ a ∧ a < base + bs.length then bs[a - base]'(by omega) else byteAt s a := by
  induction bs generalizing s base with
  | nil => simp only [storeBytes, List.length_nil]; rw [dif_neg (by omega)]
  | cons b bs ih =>
    simp only [List.length_cons] at h ⊢
    rw [storeBytes, ih _ _ (by omega), byteAt_setByte]
    by_cases hab : a = base
    · subst hab
      rw [dif_neg (by omega), dif_pos (by omega), if_pos (by omega)]
      simp
    · by_cases hin : base + 1 ≤ a ∧ a < base + 1 + bs.length
      · rw [dif_pos hin, dif_pos (by omega), List.getElem_cons, dif_neg (by omega)]
        congr 1
      · rw [dif_neg hin, dif_neg (by omega), if_neg (by omega)]

/-- Two states with the same parameters and memory read alike. -/
theorem byteAt_congr {s t : State} (hc : t.cfg = s.cfg) (hm : t.mem = s.mem) (a : Nat) : byteAt t a = byteAt s a := by
  rw [byteAt, byteAt, hc, hm]

/-! ### The canonical form -/

theorem mem_memPut {m : Memory} {a : Nat} {v : Byte} {p : Nat × Byte} (h : p ∈ memPut m a v) : p = (a, v) ∨ p ∈ m := by
  induction m with
  | nil => simpa [memPut] using h
  | cons q m ih =>
    obtain ⟨c, w⟩ := q
    simp only [memPut] at h
    split at h <;> [skip; split at h] <;> simp only [List.mem_cons] at h ⊢ <;> tauto

theorem mem_memDrop {m : Memory} {a : Nat} {p : Nat × Byte} (h : p ∈ memDrop m a) : p ∈ m := by
  induction m with
  | nil => exact h
  | cons q m ih =>
    obtain ⟨c, w⟩ := q
    simp only [memDrop] at h
    split at h
    · exact .tail _ (ih h)
    · simp only [List.mem_cons] at h ⊢; tauto

theorem pairwise_memPut {m : Memory} (a : Nat) (v : Byte) (h : m.Pairwise fun p q => p.1 < q.1) :
    (memPut m a v).Pairwise fun p q => p.1 < q.1 := by
  induction m with
  | nil => simp [memPut]
  | cons q m ih =>
    obtain ⟨c, w⟩ := q
    rw [List.pairwise_cons] at h
    simp only [memPut]
    split <;> [skip; split]
    · rw [List.pairwise_cons]
      refine ⟨fun p hp => ?_, List.pairwise_cons.2 h⟩
      rcases List.mem_cons.1 hp with rfl | hp
      · assumption
      · exact Nat.lt_trans ‹_› (h.1 p hp)
    · subst_vars; exact List.pairwise_cons.2 h
    · rw [List.pairwise_cons]
      refine ⟨fun p hp => ?_, ih h.2⟩
      rcases mem_memPut hp with rfl | hp
      · simp only; omega
      · exact h.1 p hp

theorem pairwise_memDrop {m : Memory} (a : Nat) (h : m.Pairwise fun p q => p.1 < q.1) :
    (memDrop m a).Pairwise fun p q => p.1 < q.1 := by
  induction m with
  | nil => simp [memDrop]
  | cons q m ih =>
    rw [List.pairwise_cons] at h
    simp only [memDrop]
    split
    · exact ih h.2
    · exact List.pairwise_cons.2 ⟨fun p hp => h.1 p (mem_memDrop hp), ih h.2⟩

/-- Storing a byte keeps the canonical form. -/
theorem wf_memStore {c : Config} {m : Memory} (a : Nat) (v : Byte) (h : Memory.wf c m) :
    Memory.wf c (memStore c m a v) := by
  unfold memStore
  split <;> [exact h; split]
  · exact ⟨pairwise_memDrop a h.1, fun p hp => h.2 p (mem_memDrop hp)⟩
  · refine ⟨pairwise_memPut a v h.1, fun p hp => ?_⟩
    rcases mem_memPut hp with rfl | hp
    · exact ⟨by omega, ‹_›⟩
    · exact h.2 p hp

/-- Storing a run of bytes keeps the canonical form. -/
theorem memoryOk_storeBytes {s : State} (base : Nat) (bs : List Byte) (h : MemoryOk s) :
    MemoryOk (storeBytes s base bs) := by
  induction bs generalizing s base with
  | nil => exact h
  | cons b bs ih => exact ih (s := setByte s base b) _ (wf_memStore base b h)

/-- Reset memory has the canonical form. -/
theorem memoryOk_resetWith (c : Config) (k : Nat) : MemoryOk (State.resetWith c k) :=
  ⟨.nil, fun _ h => absurd h List.not_mem_nil⟩

theorem memLookup_eq_some {m : Memory} {a : Nat} {v : Byte} (h : m.Pairwise fun p q => p.1 < q.1) :
    memLookup m a = some v ↔ (a, v) ∈ m := by
  induction m with
  | nil => simp [memLookup]
  | cons q m ih =>
    obtain ⟨c, w⟩ := q
    rw [List.pairwise_cons] at h
    simp only [memLookup, List.mem_cons, Prod.mk.injEq]
    split
    · subst_vars
      refine ⟨fun e => .inl ⟨rfl, (Option.some.inj e).symm⟩, fun e => ?_⟩
      rcases e with ⟨-, rfl⟩ | e
      · rfl
      · exact absurd (h.1 _ e) (Nat.lt_irrefl _)
    · rw [ih h.2]
      exact ⟨.inr, fun e => e.resolve_left fun ⟨e, _⟩ => ‹¬_› e.symm⟩

/-- In canonical form, memories that read alike everywhere are equal. -/
theorem memory_ext {c : Config} {m n : Memory} (hm : Memory.wf c m) (hn : Memory.wf c n)
    (h : ∀ a, memCell c m a = memCell c n a) : m = n := by
  have key : ∀ {m n : Memory}, Memory.wf c m → Memory.wf c n → (∀ a, memCell c m a = memCell c n a) →
      ∀ p ∈ m, p ∈ n := by
    intro m n hm hn h ⟨a, v⟩ hp
    have h1 := h a
    rw [memCell, (memLookup_eq_some hm.1).2 hp, memCell] at h1
    rw [← memLookup_eq_some hn.1]
    cases hl : memLookup n a with
    | none => rw [hl] at h1; exact absurd h1 (hm.2 _ hp).2
    | some w => rw [hl] at h1; exact congrArg some h1.symm
  exact List.Perm.eq_of_pairwise (le := fun p q => p.1 < q.1)
    (fun _ _ _ _ h1 h2 => absurd h1 (Nat.lt_asymm h2)) hm.1 hn.1
    ((List.perm_ext_iff_of_nodup (hm.1.imp fun h e => absurd (e ▸ h) (Nat.lt_irrefl _))
      (hn.1.imp fun h e => absurd (e ▸ h) (Nat.lt_irrefl _))).2
      fun p => ⟨key hm hn h p, key hn hm (fun a => (h a).symm) p⟩)

end Sys2Proof.Machine
end

