-- ==== Sys2Proof/Laws/Ops.lean ====
section
/-! SUPPORT. What each shared operation can do, said once: the access primitives, the range check, the fetch, the
timers, the step. -/

namespace Sys2Proof.Machine

/-! ### Registers -/

theorem readV_setV (s : State) (x y : RegIdx) (b : Byte) : readV (setV s x b) y = if y = x then b else readV s y := by
  simp only [readV, setV_v, Fin.getElem_fin, Vector.getElem_set, Fin.ext_iff, eq_comm]

/-- The flag wins when the result register is `VF` (43 R140). -/
theorem readV_writeResultFlag (s : State) (x y : RegIdx) (r : Byte) (f : Bool) :
    readV (writeResultFlag s x r f) y = if y = flagReg then flagByte f else if y = x then r else readV s y := by
  rw [writeResultFlag, setVF, readV_setV, readV_setV]

theorem readV_loadRegs (s : State) (base : Nat) (x y : RegIdx) :
    readV (loadRegs s base x) y = if y.val ≤ x.val then byteAt s (base + y.val) else readV s y := by
  simp [readV]

theorem length_regsUpTo (s : State) (x : RegIdx) : (regsUpTo s x).length = x.val + 1 := by
  simp only [regsUpTo, List.length_take, Vector.length_toList]; omega

theorem getElem_regsUpTo (s : State) (x : RegIdx) (j : Nat) (h : j < (regsUpTo s x).length) :
    (regsUpTo s x)[j] = s.v[j]'(by rw [length_regsUpTo] at h; omega) := by
  simp [regsUpTo]

/-! ### Access primitives (20 R54, R55) -/

theorem memRead_ok {s : State} {a : Nat} (h : a ≤ 4095) : memRead s a = .ok (byteAt s a) := if_pos h

theorem memRead_error {s : State} {a : Nat} (h : 4095 < a) : memRead s a = .error (outOfBoundsAt a) :=
  if_neg (by omega)

theorem memWrite_ok {s : State} {a : Nat} {v : Byte} (h : a ≤ 4095) : memWrite s a v = .ok (setByte s a v) := if_pos h

theorem memWrite_error {s : State} {a : Nat} {v : Byte} (h : 4095 < a) :
    memWrite s a v = .error (outOfBoundsAt a) := if_neg (by omega)

/-! ### The range check (20 R56) -/

theorem withRun_inside {base k : Nat} {r : Result} (h : k = 0 ∨ base + k ≤ 4096) : withRun base k r = r :=
  if_neg (by omega)

theorem withRun_outside {base k : Nat} {r : Result} (h : 1 ≤ k) (h' : 4096 < base + k) :
    withRun base k r = .fault (outOfBoundsAt (max base 4096)) := if_pos (by omega)

/-- A checked run that answers a next state lies within memory, and answers what its body answers. -/
theorem withRun_next {base k : Nat} {r : Result} {t : State} (h : withRun base k r = .next t) :
    (k = 0 ∨ base + k ≤ 4096) ∧ r = .next t := by
  unfold withRun at h
  split at h
  · exact absurd h (by simp [raise])
  · exact ⟨by omega, h⟩

theorem length_bytesAt (s : State) (base k : Nat) : (bytesAt s base k).length = k := by simp [bytesAt]

theorem getElem_bytesAt (s : State) (base k j : Nat) (h : j < (bytesAt s base k).length) :
    (bytesAt s base k)[j] = byteAt s (base + j) := by simp [bytesAt]

/-! ### The fetch (40 R101) -/

theorem fetch_inside {s : State} (h : s.pc.toNat ≤ 0xFFE) :
    fetch s = .ok (wordOfBytes (byteAt s s.pc.toNat) (byteAt s (s.pc.toNat + 1))) := by
  rw [fetch, memRead_ok (by omega), memRead_ok (by omega)]

theorem fetch_outside {s : State} (h : 0xFFE < s.pc.toNat) :
    fetch s = .error (outOfBoundsAt (max s.pc.toNat 0x1000)) := by
  rw [fetch]
  by_cases h' : s.pc.toNat ≤ 4095
  · rw [memRead_ok h', memRead_error (by omega), Nat.max_eq_right (by omega), show s.pc.toNat + 1 = 0x1000 by omega]
  · rw [memRead_error (by omega), Nat.max_eq_left (by omega)]

/-- A fetch that succeeds found `pc` within 0 to `0xFFE`. -/
theorem fetch_ok {s : State} {w : Word} (h : fetch s = .ok w) :
    s.pc.toNat ≤ 0xFFE ∧ w = wordOfBytes (byteAt s s.pc.toNat) (byteAt s (s.pc.toNat + 1)) := by
  by_cases hp : s.pc.toNat ≤ 0xFFE
  · rw [fetch_inside hp] at h; exact ⟨hp, (Except.ok.inj h).symm⟩
  · rw [fetch_outside (by omega)] at h; cases h

/-- The fetch reads `pc`, the parameters and memory, nothing else. -/
theorem fetch_congr {s t : State} (hp : t.pc = s.pc) (hc : t.cfg = s.cfg) (hm : t.mem = s.mem) : fetch t = fetch s := by
  simp only [fetch, memRead, byteAt, hp, hc, hm]

/-! ### The timers (40 R106) -/

theorem toNat_countDown (t : Byte) : (countDown t).toNat = t.toNat - 1 := by
  unfold countDown; split
  · subst_vars; rfl
  · rename_i h
    have : t.toNat ≠ 0 := fun e => h (BitVec.eq_of_toNat_eq e)
    rw [BitVec.toNat_sub_of_le (BitVec.le_def.2 (by simp; omega))]; rfl

/-! ### The step (40 R100) -/

/-- A step that answers a next state fetched a word, and its handler answered a next state. -/
theorem step_next {s t : State} (h : step s = .next t) :
    ∃ w u, fetch s = .ok w ∧ execOp (decode w) (enter (decode w) s) = .next u ∧ t = finish u := by
  unfold step at h
  cases hf : fetch s with
  | error f => rw [hf] at h; simp [raise] at h
  | ok w =>
    rw [hf] at h
    simp only [runWord] at h
    cases he : execOp (decode w) (enter (decode w) s) with
    | next u => rw [he] at h; exact ⟨w, u, rfl, he, (Host.Outcome.next.inj h).symm⟩
    | fault f => rw [he] at h; cases h
    | refused r => rw [he] at h; cases h

/-- A step that answers a fault failed its fetch, or its handler answered that fault. -/
theorem step_fault {s : State} {f : Fault} (h : step s = .fault f) :
    fetch s = .error f ∨ ∃ w, fetch s = .ok w ∧ execOp (decode w) (enter (decode w) s) = .fault f := by
  unfold step at h
  cases hf : fetch s with
  | error e => rw [hf] at h; exact .inl (congrArg _ (Host.Outcome.fault.inj h))
  | ok w =>
    rw [hf] at h
    simp only [runWord] at h
    cases he : execOp (decode w) (enter (decode w) s) with
    | next u => rw [he] at h; cases h
    | fault e => rw [he] at h; exact .inr ⟨w, rfl, he.trans (congrArg _ (Host.Outcome.fault.inj h))⟩
    | refused r => rw [he] at h; cases h

theorem step_of_next {s u : State} {w : Word} (hf : fetch s = .ok w)
    (he : execOp (decode w) (enter (decode w) s) = .next u) : step s = .next (finish u) := by
  simp only [step, hf, runWord, he]

theorem step_of_fault {s : State} {w : Word} {f : Fault} (hf : fetch s = .ok w)
    (he : execOp (decode w) (enter (decode w) s) = .fault f) : step s = .fault f := by
  simp only [step, hf, runWord, he]

/-! ### The key wait (47 R183) -/

/-- `leastKey` answers a set bit, the least one. -/
theorem leastKey_some {m : BitVec 16} {j : RegIdx} (h : leastKey m = some j) :
    m.getLsbD j.val = true ∧ ∀ k : RegIdx, k < j → m.getLsbD k.val = false := by
  have := List.find?_eq_some_iff_getElem.1 h
  obtain ⟨hj, n, hn, rfl, hlt⟩ := this
  refine ⟨hj, fun k hk => ?_⟩
  have hk' : k.val < n := by simpa [Fin.lt_def] using hk
  simpa using hlt k.val hk'

/-- `leastKey` answers nothing exactly when no bit is set. -/
theorem leastKey_none {m : BitVec 16} : leastKey m = none ↔ m = 0 := by
  unfold leastKey
  rw [List.find?_eq_none]
  constructor
  · intro h
    refine BitVec.eq_of_getLsbD_eq fun j hj => ?_
    simpa using h ⟨j, hj⟩ (List.mem_finRange _)
  · rintro rfl; simp

/-- What `LD Vx, K` can do: arm or go on waiting, or take the least newly pressed key. -/
theorem execLdVxK_cases (x : RegIdx) (s : State) :
    (execLdVxK x s = .next (awaitKey s) ∧ (s.waiting = false ∨ newlyPressed s = 0)) ∨
    (∃ j, execLdVxK x s = .next (takeKey s x j) ∧ s.waiting = true ∧ leastKey (newlyPressed s) = some j) := by
  unfold execLdVxK
  cases hw : s.waiting with
  | false => exact .inl ⟨rfl, .inl rfl⟩
  | true =>
    cases hk : leastKey (newlyPressed s) with
    | none => exact .inl ⟨rfl, .inr (leastKey_none.1 hk)⟩
    | some j => exact .inr ⟨j, rfl, rfl, rfl⟩

end Sys2Proof.Machine
end

