-- ==== Sys2Proof/Laws/Draw.lean ====
section
/-! SUPPORT. Plotting: the framebuffer keeps its size, each cell is toggled once for every plotted bit that lands on it
(45 R161). -/

namespace Sys2Proof.Machine

/-- Plotting a list of cells one after another, from any framebuffer and collision so far. -/
theorem foldl_plotCell_append (p : List Bool × Bool) (cs ds : List Nat) :
    (cs ++ ds).foldl plotCell p = ds.foldl plotCell (cs.foldl plotCell p) := List.foldl_append

@[simp] theorem length_foldl_plotCell (p : List Bool × Bool) (cs : List Nat) :
    (cs.foldl plotCell p).1.length = p.1.length := by
  induction cs generalizing p with
  | nil => rfl
  | cons c cs ih => rw [List.foldl_cons, ih, plotCell, List.length_set]

/-- A cell after plotting: toggled once for each time it is listed. -/
theorem getD_foldl_plotCell (p : List Bool × Bool) (cs : List Nat) (j : Nat) (h : j < p.1.length) :
    (cs.foldl plotCell p).1.getD j false = (p.1.getD j false ^^ decide (cs.count j % 2 = 1)) := by
  induction cs generalizing p with
  | nil => simp
  | cons c cs ih =>
    rw [List.foldl_cons, ih _ (by simpa [plotCell] using h), List.count_cons]
    have hset : (plotCell p c).1.getD j false = (p.1.getD j false ^^ decide (c = j)) := by
      simp only [plotCell, List.getD_eq_getElem?_getD, List.getElem?_set]
      by_cases hc : c = j
      · subst hc; simp [h]
      · simp [hc]
    rw [hset]
    by_cases hc : c = j
    · subst hc
      rcases Nat.mod_two_eq_zero_or_one (List.count c cs) with e | e <;>
        cases p.1.getD c false <;> simp [e, Nat.add_mod]
    · simp [hc]

/-- `plotCells` keeps the framebuffer's size. -/
@[simp] theorem length_plotCells (fb : List Bool) (cs : List Nat) : (plotCells fb cs).1.length = fb.length :=
  length_foldl_plotCell _ _

/-- A cell after `plotCells`. -/
theorem getD_plotCells (fb : List Bool) (cs : List Nat) (j : Nat) (h : j < fb.length) :
    (plotCells fb cs).1.getD j false = (fb.getD j false ^^ decide (cs.count j % 2 = 1)) :=
  getD_foldl_plotCell _ _ _ h

/-- A collision: some listed cell is set when its turn comes. -/
theorem snd_foldl_plotCell (p : List Bool × Bool) (cs : List Nat) :
    (cs.foldl plotCell p).2 = true ↔
      p.2 = true ∨ ∃ m, ∃ h : m < cs.length, ((cs.take m).foldl plotCell p).1.getD cs[m] false = true := by
  induction cs generalizing p with
  | nil => simp
  | cons c cs ih =>
    rw [List.foldl_cons, ih, plotCell, Bool.or_eq_true, or_assoc]
    refine or_congr_right ⟨?_, ?_⟩
    · rintro (h | ⟨m, hm, h⟩)
      · exact ⟨0, by simp, by simpa using h⟩
      · exact ⟨m + 1, by simpa using hm, by simpa [plotCell] using h⟩
    · rintro ⟨m, hm, h⟩
      cases m with
      | zero => exact .inl (by simpa using h)
      | succ m => exact .inr ⟨m, by simpa using hm, by simpa [plotCell] using h⟩

/-- `rowCells`, from row `row` on, is the sprite's rows in turn. -/
theorem spriteCells_eq_flatMap (c : Config) (x0 y0 row : Nat) (bs : List Byte) :
    spriteCells c x0 y0 row bs =
      (List.range bs.length).flatMap fun r => rowCells c x0 y0 (row + r) (bs.getD r 0) := by
  induction bs generalizing row with
  | nil => rfl
  | cons b bs ih =>
    rw [spriteCells, ih, List.length_cons, List.range_succ_eq_map, List.flatMap_cons, List.flatMap_map]
    simp [Nat.add_assoc, Nat.add_comm 1]

/-- A cell of the grid under either wrap (45 R160). -/
theorem pixelCell_lt (c : Config) (h : c.wf = true) (x0 y0 col row : Nat) :
    pixelCell c x0 y0 col row < c.fbW * c.fbH := by
  simp only [Config.wf, Bool.and_eq_true, decide_eq_true_eq] at h
  unfold pixelCell
  split
  · exact Nat.mod_lt _ (Nat.mul_pos h.1 h.2)
  · have h1 := Nat.mod_lt (y0 + row) h.2
    have h2 := Nat.mod_lt (x0 + col) h.1
    calc (y0 + row) % c.fbH * c.fbW + (x0 + col) % c.fbW
        < (y0 + row) % c.fbH * c.fbW + c.fbW := by omega
      _ = ((y0 + row) % c.fbH + 1) * c.fbW := by ring
      _ ≤ c.fbH * c.fbW := Nat.mul_le_mul_right _ h1
      _ = c.fbW * c.fbH := Nat.mul_comm _ _

/-- The cells `DRW` plots are the sprite's cells, in the same order (45 R161). -/
theorem spriteCells_bytesAt (s : State) (x0 y0 n : Nat) :
    spriteCells s.cfg x0 y0 0 (bytesAt s s.i.toNat n) = plottedCells s x0 y0 n := by
  rw [spriteCells_eq_flatMap, length_bytesAt, plottedCells]
  refine List.flatMap_congr fun r hr => ?_
  have hr : r < n := List.mem_range.1 hr
  have hb : (bytesAt s s.i.toNat n).getD r 0 = byteAt s (s.i.toNat + r) := by simp [bytesAt, hr]
  rw [hb, rowCells, Nat.zero_add]

end Sys2Proof.Machine
end

