-- ==== Sys2Proof/Laws/Encoding.lean ====
section
/-! SUPPORT. The fields of a word built from its parts, for each format of 30 R72. -/

namespace Sys2Proof

theorem regNibble_toFin (x : RegIdx) : (regNibble x).toFin = x := rfl

theorem regNibble_inj {x y : RegIdx} (h : regNibble x = regNibble y) : x = y := congrArg BitVec.toFin h

@[simp] theorem fieldOp_wordNNN (op : Nibble) (nnn : Addr) : fieldOp (wordNNN op nnn) = op := by
  unfold fieldOp wordNNN; grind

@[simp] theorem fieldNNN_wordNNN (op : Nibble) (nnn : Addr) : fieldNNN (wordNNN op nnn) = nnn := by
  unfold fieldNNN wordNNN; grind

@[simp] theorem fieldOp_wordXKK (op : Nibble) (x : RegIdx) (kk : Byte) : fieldOp (wordXKK op x kk) = op := by
  unfold fieldOp wordXKK; grind

@[simp] theorem fieldX_wordXKK (op : Nibble) (x : RegIdx) (kk : Byte) : fieldX (wordXKK op x kk) = x := by
  refine regNibble_inj ?_
  unfold fieldX wordXKK; change BitVec.extractLsb' 8 4 _ = _; grind

@[simp] theorem fieldKK_wordXKK (op : Nibble) (x : RegIdx) (kk : Byte) : fieldKK (wordXKK op x kk) = kk := by
  unfold fieldKK wordXKK; grind

@[simp] theorem fieldOp_wordXYN (op : Nibble) (x y : RegIdx) (n : Nibble) : fieldOp (wordXYN op x y n) = op := by
  unfold fieldOp wordXYN; grind

@[simp] theorem fieldX_wordXYN (op : Nibble) (x y : RegIdx) (n : Nibble) : fieldX (wordXYN op x y n) = x := by
  refine regNibble_inj ?_
  unfold fieldX wordXYN; change BitVec.extractLsb' 8 4 _ = _; grind

@[simp] theorem fieldY_wordXYN (op : Nibble) (x y : RegIdx) (n : Nibble) : fieldY (wordXYN op x y n) = y := by
  refine regNibble_inj ?_
  unfold fieldY wordXYN; change BitVec.extractLsb' 4 4 _ = _; grind

@[simp] theorem fieldN_wordXYN (op : Nibble) (x y : RegIdx) (n : Nibble) : fieldN (wordXYN op x y n) = n := by
  unfold fieldN wordXYN; grind

/-- The bytes of a word, in memory order, give the word back (20 R57). -/
theorem wordOfBytes_bytesOfWord (w : Word) : wordOfBytes (w.extractLsb' 8 8) (w.extractLsb' 0 8) = w := by
  unfold wordOfBytes; grind

/-- The value of a word from its two bytes (20 R57). -/
theorem toNat_wordOfBytes (hi lo : Byte) : (wordOfBytes hi lo).toNat = 256 * hi.toNat + lo.toNat := by
  rw [wordOfBytes, BitVec.toNat_append, ← Nat.shiftLeft_add_eq_or_of_lt lo.isLt, Nat.shiftLeft_eq]; omega

/-! ### A word's fields as numbers, and the word from its fields -/

theorem toNat_fieldOp (w : Word) : (fieldOp w).toNat = w.toNat / 4096 := by
  simp [fieldOp, BitVec.extractLsb'_toNat, Nat.shiftRight_eq_div_pow]; omega

theorem toNat_fieldN (w : Word) : (fieldN w).toNat = w.toNat % 16 := by
  simp [fieldN, BitVec.extractLsb'_toNat]

theorem toNat_fieldKK (w : Word) : (fieldKK w).toNat = w.toNat % 256 := by
  simp [fieldKK, BitVec.extractLsb'_toNat]

theorem wordNNN_of_fields (w : Word) : wordNNN (fieldOp w) (fieldNNN w) = w := by
  unfold wordNNN fieldOp fieldNNN; grind

theorem wordXKK_of_fields (w : Word) : wordXKK (fieldOp w) (fieldX w) (fieldKK w) = w := by
  have hx : regNibble (fieldX w) = w.extractLsb' 8 4 := rfl
  unfold wordXKK fieldOp fieldKK; rw [hx]; grind

theorem wordXYN_of_fields (w : Word) : wordXYN (fieldOp w) (fieldX w) (fieldY w) (fieldN w) = w := by
  have hx : regNibble (fieldX w) = w.extractLsb' 8 4 := rfl
  have hy : regNibble (fieldY w) = w.extractLsb' 4 4 := rfl
  unfold wordXYN fieldOp fieldN; rw [hx, hy]; grind

/-- The word with its low nibble cleared, from the other fields (30 R83). -/
theorem wordXYN_zero_of_fields (w : Word) : wordXYN (fieldOp w) (fieldX w) (fieldY w) 0 = w &&& 0xFFF0 := by
  have ones (a : Nibble) : a &&& 0xF#4 = a := BitVec.and_allOnes
  have h : wordXYN (fieldOp w) (fieldX w) (fieldY w) (fieldN w) &&& (0xF#4 ++ 0xF#4 ++ 0xF#4 ++ 0#4) =
      (fieldOp w &&& 0xF#4) ++ (regNibble (fieldX w) &&& 0xF#4) ++ (regNibble (fieldY w) &&& 0xF#4) ++
        (fieldN w &&& 0#4) := by
    rw [wordXYN, BitVec.and_append, BitVec.and_append, BitVec.and_append]
  rw [ones, ones, ones, BitVec.and_zero, wordXYN_of_fields] at h
  exact h.symm

end Sys2Proof
end

