-- ==== Sys2Proof/Laws/Exec.lean ====
section
/-! SUPPORT. What a meaning can do, said once for all instructions: the next states, as shared operations. -/

namespace Sys2Proof.Machine

/-- What each meaning does when it answers a next state: which shared operation gives that state. -/
theorem exec_next {i : Instr} {s u : State} (h : exec i s = .next u) :
    match i with
    | .sys _ => u = s
    | .cls => u = clearScreen s
    | .ret => ∃ h, u = popReturn s h
    | .jp a => u = jumpTo s (addrWord a)
    | .call a => ∃ h, u = jumpTo (pushReturn s h) (addrWord a)
    | .seVxByte _ _ | .sneVxByte _ _ | .seVxVy _ _ | .sneVxVy _ _ | .skp _ | .sknp _ => ∃ c, u = skipIf s c
    | .ldVxByte x _ | .addVxByte x _ | .ldVxVy x _ | .orVxVy x _ | .andVxVy x _ | .xorVxVy x _ | .ldVxDt x =>
        ∃ b, u = setV s x b
    | .addVxVy x _ | .subVxVy x _ | .subnVxVy x _ | .shrVxVy x _ | .shlVxVy x _ =>
        ∃ b f, u = writeResultFlag s x b f
    | .ldIAddr _ | .addIVx _ | .ldFVx _ => ∃ w, u = setIndex s w
    | .jpV0Addr _ => ∃ w, u = jumpTo s w
    | .rndVxByte x _ => ∃ b, u = setV (useByte s) x b
    | .drw x y n => u = drawSprite s (readV s x).toNat (readV s y).toNat (bytesAt s s.i.toNat n.toNat)
    | .ldVxK x => u = awaitKey s ∨ ∃ j, u = takeKey s x j
    | .ldDtVx x => u = { s with dt := readV s x }
    | .ldStVx x => u = { s with st := readV s x }
    | .ldBVx x => u = storeBytes s s.i.toNat (bcdDigits (readV s x))
    | .ldMemVx x => u = storeBytes s s.i.toNat (regsUpTo s x)
    | .ldVxMem x => u = loadRegs s s.i.toNat x := by
  cases i
  case ret =>
    simp only [exec, execRet, raise] at h
    split at h
    · cases h; exact ⟨_, rfl⟩
    · cases h
  case call =>
    simp only [exec, execCall, raise] at h
    split at h
    · cases h; exact ⟨_, rfl⟩
    · cases h
  case drw => have := (withRun_next h).2; cases this; rfl
  case ldBVx => have := (withRun_next h).2; cases this; rfl
  case ldMemVx => have := (withRun_next h).2; cases this; rfl
  case ldVxMem => have := (withRun_next h).2; cases this; rfl
  case ldVxK x =>
    rcases execLdVxK_cases x s with ⟨h', -⟩ | ⟨j, h', -⟩ <;> rw [exec, h'] at h <;> cases h
    · exact .inl rfl
    · exact .inr ⟨j, rfl⟩
  all_goals (cases h; first | rfl | exact ⟨_, rfl⟩ | exact ⟨_, _, rfl⟩)

/-- `Unknown` leaves the state it is given (48 R191). -/
theorem execOp_unknown {w : Word} {s u : State} (h : execOp (.unknown w) s = .next u) : u = s :=
  (Host.Outcome.next.inj h).symm

/-- `step_next` for a word already known. -/
theorem step_next_of_fetch {s t : State} {w : Word} (hf : fetch s = .ok w) (h : step s = .next t) :
    ∃ u, execOp (decode w) (enter (decode w) s) = .next u ∧ t = finish u := by
  obtain ⟨w', u, hw, he, ht⟩ := step_next h
  rw [hf] at hw
  cases hw
  exact ⟨u, he, ht⟩

/-- `waiting` survives into `LD Vx, K` and into no other instruction (40 R104). -/
theorem enter_waiting_instr (i : Instr) (s : State) :
    (enter (.instr i) s).waiting = match i with
      | .ldVxK _ => s.waiting
      | _ => false := by
  cases i <;> simp [isKeyWait]

/-- `LD Vx, K` sees the state with `pc` advanced and nothing else changed. -/
theorem enter_ldVxK (x : RegIdx) (s : State) : enter (.instr (.ldVxK x)) s = { s with pc := s.pc + 2 } := by
  simp [enter, isKeyWait, advancePc]

/-- A step whose word decodes to `i` and whose handler answers a next state. -/
theorem step_of_exec {s u : State} {w : Word} {i : Instr} (hf : fetch s = .ok w) (hd : decode w = .instr i)
    (he : exec i (enter (.instr i) s) = .next u) : step s = .next (finish u) :=
  step_of_next hf (by rw [hd]; exact he)

/-- `LD Vx, K` answers a next state always; which one, by `execLdVxK_cases`. -/
theorem execLdVxK_next (x : RegIdx) (s : State) : ∃ t, execLdVxK x s = .next t := by
  rcases execLdVxK_cases x s with ⟨h, -⟩ | ⟨j, h, -⟩
  · exact ⟨_, h⟩
  · exact ⟨_, h⟩

end Sys2Proof.Machine
end

