-- ==== Sys2Proof/Laws/PerInstr.lean ====
section
/-! SUPPORT. The per-instruction family `EncodedRow`: an instruction's word matches its own row of the opcode table,
`match` and `mask` as 30 R78 prints them. -/

namespace Sys2Proof.Laws

/-- The row of 30 R78: `match`, then `mask`. -/
def tableRow : Instr → Word × Word
  | .sys _ => (0x0000, 0xF000)
  | .cls => (0x00E0, 0xFFFF)
  | .ret => (0x00EE, 0xFFFF)
  | .jp _ => (0x1000, 0xF000)
  | .call _ => (0x2000, 0xF000)
  | .seVxByte _ _ => (0x3000, 0xF000)
  | .sneVxByte _ _ => (0x4000, 0xF000)
  | .seVxVy _ _ => (0x5000, 0xF000)
  | .ldVxByte _ _ => (0x6000, 0xF000)
  | .addVxByte _ _ => (0x7000, 0xF000)
  | .ldVxVy _ _ => (0x8000, 0xF00F)
  | .orVxVy _ _ => (0x8001, 0xF00F)
  | .andVxVy _ _ => (0x8002, 0xF00F)
  | .xorVxVy _ _ => (0x8003, 0xF00F)
  | .addVxVy _ _ => (0x8004, 0xF00F)
  | .subVxVy _ _ => (0x8005, 0xF00F)
  | .shrVxVy _ _ => (0x8006, 0xF00F)
  | .subnVxVy _ _ => (0x8007, 0xF00F)
  | .shlVxVy _ _ => (0x800E, 0xF00F)
  | .sneVxVy _ _ => (0x9000, 0xF000)
  | .ldIAddr _ => (0xA000, 0xF000)
  | .jpV0Addr _ => (0xB000, 0xF000)
  | .rndVxByte _ _ => (0xC000, 0xF000)
  | .drw _ _ _ => (0xD000, 0xF000)
  | .skp _ => (0xE09E, 0xF0FF)
  | .sknp _ => (0xE0A1, 0xF0FF)
  | .ldVxDt _ => (0xF007, 0xF0FF)
  | .ldVxK _ => (0xF00A, 0xF0FF)
  | .ldDtVx _ => (0xF015, 0xF0FF)
  | .ldStVx _ => (0xF018, 0xF0FF)
  | .addIVx _ => (0xF01E, 0xF0FF)
  | .ldFVx _ => (0xF029, 0xF0FF)
  | .ldBVx _ => (0xF033, 0xF0FF)
  | .ldMemVx _ => (0xF055, 0xF0FF)
  | .ldVxMem _ => (0xF065, 0xF0FF)

/-- The word of an instruction, masked by its row's mask, is its row's match (30 R78). -/
def EncodedRow.Statement (i : Instr) : Prop := encode i &&& (tableRow i).2 = (tableRow i).1

/-! ### One format at a time -/

theorem and_ones4 (a : Nibble) : a &&& 0xF#4 = a := BitVec.and_allOnes

theorem and_ones8 (a : Byte) : a &&& 0xFF#8 = a := BitVec.and_allOnes

theorem mask_wordNNN (op : Nibble) (nnn : Addr) : wordNNN op nnn &&& 0xF000 = wordNNN op 0 := by
  have h : (op ++ nnn) &&& (0xF#4 ++ 0#12) = (op &&& 0xF#4) ++ (nnn &&& 0#12) := BitVec.and_append
  rw [and_ones4, BitVec.and_zero] at h
  exact h

/-- A mask on the three parts of an `XKK` word. -/
theorem and_wordXKK (op : Nibble) (x : RegIdx) (kk : Byte) (m m' : Nibble) (m'' : Byte) :
    wordXKK op x kk &&& (m ++ m' ++ m'' : BitVec 16) = (op &&& m) ++ (regNibble x &&& m') ++ (kk &&& m'') := by
  have h : (op ++ regNibble x ++ kk) &&& (m ++ m' ++ m'') = (op &&& m) ++ (regNibble x &&& m') ++ (kk &&& m'') := by
    rw [BitVec.and_append, BitVec.and_append]
  exact h

theorem mask_wordXKK (op : Nibble) (x : RegIdx) (kk : Byte) : wordXKK op x kk &&& 0xF000 = wordXKK op 0 0 := by
  have h := and_wordXKK op x kk 0xF#4 0#4 0#8
  rw [and_ones4, BitVec.and_zero, BitVec.and_zero] at h
  exact h

theorem mask_wordXKK_selector (op : Nibble) (x : RegIdx) (kk : Byte) :
    wordXKK op x kk &&& 0xF0FF = wordXKK op 0 kk := by
  have h := and_wordXKK op x kk 0xF#4 0#4 0xFF#8
  rw [and_ones4, and_ones8, BitVec.and_zero] at h
  exact h

/-- A mask on the four parts of an `XYN` word. -/
theorem and_wordXYN (op : Nibble) (x y : RegIdx) (n m m' m'' m3 : Nibble) :
    wordXYN op x y n &&& (m ++ m' ++ m'' ++ m3 : BitVec 16) =
      (op &&& m) ++ (regNibble x &&& m') ++ (regNibble y &&& m'') ++ (n &&& m3) := by
  have h : (op ++ regNibble x ++ regNibble y ++ n) &&& (m ++ m' ++ m'' ++ m3) =
      (op &&& m) ++ (regNibble x &&& m') ++ (regNibble y &&& m'') ++ (n &&& m3) := by
    rw [BitVec.and_append, BitVec.and_append, BitVec.and_append]
  exact h

theorem mask_wordXYN (op : Nibble) (x y : RegIdx) (n : Nibble) : wordXYN op x y n &&& 0xF000 = wordXYN op 0 0 0 := by
  have h := and_wordXYN op x y n 0xF#4 0#4 0#4 0#4
  rw [and_ones4, BitVec.and_zero, BitVec.and_zero, BitVec.and_zero] at h
  exact h

theorem mask_wordXYN_selector (op : Nibble) (x y : RegIdx) (n : Nibble) :
    wordXYN op x y n &&& 0xF00F = wordXYN op 0 0 n := by
  have h := and_wordXYN op x y n 0xF#4 0#4 0#4 0xF#4
  rw [and_ones4, and_ones4, BitVec.and_zero, BitVec.and_zero] at h
  exact h

/-! ### One instruction at a time -/

theorem EncodedRow.sys (nnn : Addr) : EncodedRow.Statement (.sys nnn) := mask_wordNNN _ _

theorem EncodedRow.cls : EncodedRow.Statement (.cls) := rfl

theorem EncodedRow.ret : EncodedRow.Statement (.ret) := rfl

theorem EncodedRow.jp (nnn : Addr) : EncodedRow.Statement (.jp nnn) := mask_wordNNN _ _

theorem EncodedRow.call (nnn : Addr) : EncodedRow.Statement (.call nnn) := mask_wordNNN _ _

theorem EncodedRow.seVxByte (x : RegIdx) (kk : Byte) : EncodedRow.Statement (.seVxByte x kk) := mask_wordXKK _ _ _

theorem EncodedRow.sneVxByte (x : RegIdx) (kk : Byte) : EncodedRow.Statement (.sneVxByte x kk) := mask_wordXKK _ _ _

theorem EncodedRow.seVxVy (x y : RegIdx) : EncodedRow.Statement (.seVxVy x y) := mask_wordXYN _ _ _ _

theorem EncodedRow.ldVxByte (x : RegIdx) (kk : Byte) : EncodedRow.Statement (.ldVxByte x kk) := mask_wordXKK _ _ _

theorem EncodedRow.addVxByte (x : RegIdx) (kk : Byte) : EncodedRow.Statement (.addVxByte x kk) := mask_wordXKK _ _ _

theorem EncodedRow.ldVxVy (x y : RegIdx) : EncodedRow.Statement (.ldVxVy x y) := mask_wordXYN_selector _ _ _ _

theorem EncodedRow.orVxVy (x y : RegIdx) : EncodedRow.Statement (.orVxVy x y) := mask_wordXYN_selector _ _ _ _

theorem EncodedRow.andVxVy (x y : RegIdx) : EncodedRow.Statement (.andVxVy x y) := mask_wordXYN_selector _ _ _ _

theorem EncodedRow.xorVxVy (x y : RegIdx) : EncodedRow.Statement (.xorVxVy x y) := mask_wordXYN_selector _ _ _ _

theorem EncodedRow.addVxVy (x y : RegIdx) : EncodedRow.Statement (.addVxVy x y) := mask_wordXYN_selector _ _ _ _

theorem EncodedRow.subVxVy (x y : RegIdx) : EncodedRow.Statement (.subVxVy x y) := mask_wordXYN_selector _ _ _ _

theorem EncodedRow.shrVxVy (x y : RegIdx) : EncodedRow.Statement (.shrVxVy x y) := mask_wordXYN_selector _ _ _ _

theorem EncodedRow.subnVxVy (x y : RegIdx) : EncodedRow.Statement (.subnVxVy x y) := mask_wordXYN_selector _ _ _ _

theorem EncodedRow.shlVxVy (x y : RegIdx) : EncodedRow.Statement (.shlVxVy x y) := mask_wordXYN_selector _ _ _ _

theorem EncodedRow.sneVxVy (x y : RegIdx) : EncodedRow.Statement (.sneVxVy x y) := mask_wordXYN _ _ _ _

theorem EncodedRow.ldIAddr (nnn : Addr) : EncodedRow.Statement (.ldIAddr nnn) := mask_wordNNN _ _

theorem EncodedRow.jpV0Addr (nnn : Addr) : EncodedRow.Statement (.jpV0Addr nnn) := mask_wordNNN _ _

theorem EncodedRow.rndVxByte (x : RegIdx) (kk : Byte) : EncodedRow.Statement (.rndVxByte x kk) := mask_wordXKK _ _ _

theorem EncodedRow.drw (x y : RegIdx) (n : Nibble) : EncodedRow.Statement (.drw x y n) := mask_wordXYN _ _ _ _

theorem EncodedRow.skp (x : RegIdx) : EncodedRow.Statement (.skp x) := mask_wordXKK_selector _ _ _

theorem EncodedRow.sknp (x : RegIdx) : EncodedRow.Statement (.sknp x) := mask_wordXKK_selector _ _ _

theorem EncodedRow.ldVxDt (x : RegIdx) : EncodedRow.Statement (.ldVxDt x) := mask_wordXKK_selector _ _ _

theorem EncodedRow.ldVxK (x : RegIdx) : EncodedRow.Statement (.ldVxK x) := mask_wordXKK_selector _ _ _

theorem EncodedRow.ldDtVx (x : RegIdx) : EncodedRow.Statement (.ldDtVx x) := mask_wordXKK_selector _ _ _

theorem EncodedRow.ldStVx (x : RegIdx) : EncodedRow.Statement (.ldStVx x) := mask_wordXKK_selector _ _ _

theorem EncodedRow.addIVx (x : RegIdx) : EncodedRow.Statement (.addIVx x) := mask_wordXKK_selector _ _ _

theorem EncodedRow.ldFVx (x : RegIdx) : EncodedRow.Statement (.ldFVx x) := mask_wordXKK_selector _ _ _

theorem EncodedRow.ldBVx (x : RegIdx) : EncodedRow.Statement (.ldBVx x) := mask_wordXKK_selector _ _ _

theorem EncodedRow.ldMemVx (x : RegIdx) : EncodedRow.Statement (.ldMemVx x) := mask_wordXKK_selector _ _ _

theorem EncodedRow.ldVxMem (x : RegIdx) : EncodedRow.Statement (.ldVxMem x) := mask_wordXKK_selector _ _ _

end Sys2Proof.Laws
end

