-- ==== Sys2Proof/Tests/Slice0.lean ====
section
/-! SUPPORT. The model's own tests. Expected results are those of 95 (a test's comment names the vector)
or the rule's own example; `witness_<Name>` theorems show a concrete case that meets the hypotheses of `Obligations.<Name>`. -/

namespace Sys2Proof.Tests

open Sys2Proof Sys2Proof.Machine

-- One theorem at a time: many kernel evaluations in parallel would need many threads.
set_option Elab.async false

/-! ### Helpers -/

/-- The reset state with one instruction word at `0x200`. -/
def placed (w : Nat) : State := State.reset.withFetchWord 16 w

/-- The reset state with `pc` at `a` and one instruction word there. -/
def placedAt (a : Word) (w : Nat) : State := { State.reset with pc := a }.withFetchWord 16 w

/-- A register bank: the values listed, 0 elsewhere. -/
def regs (l : List (Nat × Byte)) : Vector Byte 16 := Vector.ofFn fun j : Fin 16 => (l.lookup j.val).getD 0

/-- A default-size framebuffer with the listed cells set. -/
def cells (l : List Nat) : List Bool := l.foldl (fun fb j => fb.set j true) (List.replicate 2048 false)

/-- The step answers a next state that satisfies `p`. -/
def runs (s : State) (p : State → Bool) : Bool :=
  match step s with
  | .next t => p t
  | .fault _ => false
  | .refused _ => false

/-- The meaning answers a next state that satisfies `p`. -/
def does (i : Instr) (s : State) (p : State → Bool) : Bool :=
  match exec i s with
  | .next t => p t
  | .fault _ => false
  | .refused _ => false

/-- The step is an error with this fault. -/
def fails (s : State) (f : Fault) : Bool :=
  match step s with
  | .next _ => false
  | .fault g => g == f
  | .refused _ => false

/-- The status the host gets. -/
def status (s : State) : Option Status :=
  match transact s with
  | .ok r => some r.2
  | .error _ => none

theorem runs_next {s : State} {P : State → Prop} [DecidablePred P] (h : runs s (fun t => decide (P t)) = true) :
    ∃ t, step s = .next t ∧ P t := by
  unfold runs at h
  split at h
  · exact ⟨_, ‹_›, of_decide_eq_true h⟩
  · cases h
  · cases h

theorem does_next {i : Instr} {s : State} {P : State → Prop} [DecidablePred P]
    (h : does i s (fun t => decide (P t)) = true) : ∃ t, exec i s = .next t ∧ P t := by
  unfold does at h
  split at h
  · exact ⟨_, ‹_›, of_decide_eq_true h⟩
  · cases h
  · cases h

theorem fails_fault {s : State} {f : Fault} (h : fails s f = true) : step s = .fault f := by
  unfold fails at h
  split at h
  · cases h
  · rename_i g hg
    rw [hg, eq_of_beq h]
  · cases h

/-! ### Well-formedness: each check refuses an ill-formed term (30 R79) -/

theorem test_wf_refuses_sys_0E0 : (Instr.sys 0x0E0).wellFormed = false := by decide

theorem test_wf_refuses_sys_0EE : (Instr.sys 0x0EE).wellFormed = false := by decide

theorem test_wf_accepts_neighbours :
    (Instr.sys 0x0EF).wellFormed = true ∧ (Instr.sys 0).wellFormed = true ∧ Instr.cls.wellFormed = true := by decide

/-! ### Decoding: one word a constructor, written out from the patterns of 30 R78 -/

theorem test_decode_sys : decode 0b0000000100100011 = .instr (.sys 0x123) := by decide
theorem test_decode_cls : decode 0b0000000011100000 = .instr .cls := by decide
theorem test_decode_ret : decode 0b0000000011101110 = .instr .ret := by decide
theorem test_decode_jp : decode 0b0001101010111100 = .instr (.jp 0xABC) := by decide
theorem test_decode_call : decode 0b0010001100000001 = .instr (.call 0x301) := by decide
theorem test_decode_seVxByte : decode 0b0011001101000010 = .instr (.seVxByte 3 0x42) := by decide
theorem test_decode_sneVxByte : decode 0b0100001101000010 = .instr (.sneVxByte 3 0x42) := by decide
theorem test_decode_seVxVy : decode 0b0101000100100111 = .instr (.seVxVy 1 2) := by decide
theorem test_decode_ldVxByte : decode 0b0110101001111111 = .instr (.ldVxByte 10 0x7F) := by decide
theorem test_decode_addVxByte : decode 0b0111000111111110 = .instr (.addVxByte 1 0xFE) := by decide
theorem test_decode_ldVxVy : decode 0b1000000100100000 = .instr (.ldVxVy 1 2) := by decide
theorem test_decode_orVxVy : decode 0b1000000100100001 = .instr (.orVxVy 1 2) := by decide
theorem test_decode_andVxVy : decode 0b1000000100100010 = .instr (.andVxVy 1 2) := by decide
theorem test_decode_xorVxVy : decode 0b1000011100110011 = .instr (.xorVxVy 7 3) := by decide
theorem test_decode_addVxVy : decode 0b1000001000110100 = .instr (.addVxVy 2 3) := by decide
theorem test_decode_subVxVy : decode 0b1000111100010101 = .instr (.subVxVy 15 1) := by decide
theorem test_decode_shrVxVy : decode 0b1000001000010110 = .instr (.shrVxVy 2 1) := by decide
theorem test_decode_subnVxVy : decode 0b1000000000010111 = .instr (.subnVxVy 0 1) := by decide
theorem test_decode_shlVxVy : decode 0b1000000000011110 = .instr (.shlVxVy 0 1) := by decide
theorem test_decode_sneVxVy : decode 0b1001000100101111 = .instr (.sneVxVy 1 2) := by decide
theorem test_decode_ldIAddr : decode 0b1010111111111110 = .instr (.ldIAddr 0xFFE) := by decide
theorem test_decode_jpV0Addr : decode 0b1011001100000100 = .instr (.jpV0Addr 0x304) := by decide
theorem test_decode_rndVxByte : decode 0b1100001100001111 = .instr (.rndVxByte 3 0x0F) := by decide
theorem test_decode_drw : decode 0b1101000100100101 = .instr (.drw 1 2 5) := by decide
theorem test_decode_skp : decode 0b1110010010011110 = .instr (.skp 4) := by decide
theorem test_decode_sknp : decode 0b1110010010100001 = .instr (.sknp 4) := by decide
theorem test_decode_ldVxDt : decode 0b1111001100000111 = .instr (.ldVxDt 3) := by decide
theorem test_decode_ldVxK : decode 0b1111010100001010 = .instr (.ldVxK 5) := by decide
theorem test_decode_ldDtVx : decode 0b1111000100010101 = .instr (.ldDtVx 1) := by decide
theorem test_decode_ldStVx : decode 0b1111000100011000 = .instr (.ldStVx 1) := by decide
theorem test_decode_addIVx : decode 0b1111000100011110 = .instr (.addIVx 1) := by decide
theorem test_decode_ldFVx : decode 0b1111001000101001 = .instr (.ldFVx 2) := by decide
theorem test_decode_ldBVx : decode 0b1111010100110011 = .instr (.ldBVx 5) := by decide
theorem test_decode_ldMemVx : decode 0b1111001001010101 = .instr (.ldMemVx 2) := by decide
theorem test_decode_ldVxMem : decode 0b1111001001100101 = .instr (.ldVxMem 2) := by decide

/-- Words of 95 Q7 that match no instruction. -/
theorem test_decode_unknown :
    decode 0x8018 = .unknown 0x8018 ∧ decode 0xE09F = .unknown 0xE09F ∧ decode 0xF066 = .unknown 0xF066 ∧
      decode 0xFFFF = .unknown 0xFFFF := by decide

/-- 95 SK5, SK9. -/
theorem test_decode_low_nibble_ignored :
    decode 0x5120 = .instr (.seVxVy 1 2) ∧ decode 0x912F = .instr (.sneVxVy 1 2) := by decide

/-- The word is big-endian, and one word is taken (30 R70). -/
theorem test_decodeBytes :
    decodeBytes [0x12, 0x34, 0x56] = some (.instr (.jp 0x234), [0x56]) ∧ decodeBytes [0x12] = none := by decide

theorem test_decodeTableWord :
    decodeTableWord 16 0xD125 = some (.drw 1 2 5) ∧ decodeTableWord 16 0x8018 = none := by decide

theorem test_withFetchWord :
    fetch (placed 0xD125) = .ok 0xD125 ∧ fetch (placedAt 0xFFE 0x3000) = .ok 0x3000 := by decide +kernel

/-! ### Control flow (95 CF) -/

/-- CF1. -/
theorem test_jp : runs (placed 0x1ABC) (fun t => t.pc == 0xABC) = true := by decide +kernel

/-- CF3. -/
theorem test_call :
    runs (placed 0x2300) (fun t => t.pc == 0x300 && t.sp == 1 && t.stack[0] == 0x202) = true := by decide +kernel

/-- CF7. -/
theorem test_call_last :
    runs { placed 0x2FFF with sp := 15 } (fun t => t.pc == 0xFFF && t.sp == 16 && t.stack[15] == 0x202) = true := by
  decide +kernel

/-- CF4. -/
theorem test_ret :
    runs { placedAt 0x300 0x00EE with sp := 1, stack := Vector.replicate 16 0x202 } (fun t =>
      t.pc == 0x202 && t.sp == 0 && t.stack[0] == 0x202) = true := by decide +kernel

/-- CF5. -/
theorem test_ret_empty : status (placed 0x00EE) = some (.stackUnderflow 0x200) := by decide +kernel

/-- CF8. -/
theorem test_jpV0 :
    runs { placed 0xBFFF with v := regs [(0, 0xFF)] } (fun t => t.pc == 0x10FE) = true := by decide +kernel

/-! ### Skips (95 SK) -/

/-- SK1. -/
theorem test_se_byte :
    runs { placed 0x3342 with v := regs [(3, 0x42)] } (fun t => t.pc == 0x204) = true := by decide +kernel

/-- SK2. -/
theorem test_se_byte_no :
    runs { placed 0x3342 with v := regs [(3, 0x41)] } (fun t => t.pc == 0x202) = true := by decide +kernel

/-- SK3. -/
theorem test_sne_byte :
    runs { placed 0x4342 with v := regs [(3, 0x41)] } (fun t => t.pc == 0x204) = true := by decide +kernel

/-- SK4. -/
theorem test_sne_byte_no :
    runs { placed 0x4342 with v := regs [(3, 0x42)] } (fun t => t.pc == 0x202) = true := by decide +kernel

/-- SK6. -/
theorem test_se_reg :
    runs { placed 0x5127 with v := regs [(1, 9), (2, 9)] } (fun t => t.pc == 0x204) = true := by decide +kernel

/-- SK7. -/
theorem test_se_reg_no :
    runs { placed 0x5120 with v := regs [(1, 9), (2, 8)] } (fun t => t.pc == 0x202) = true := by decide +kernel

/-- SK8. -/
theorem test_sne_reg :
    runs { placed 0x9120 with v := regs [(1, 9), (2, 8)] } (fun t => t.pc == 0x204) = true := by decide +kernel

/-- SK9. -/
theorem test_sne_reg_no :
    runs { placed 0x912F with v := regs [(1, 9), (2, 9)] } (fun t => t.pc == 0x202) = true := by decide +kernel

/-- SK11. -/
theorem test_skp :
    runs { placed 0xE49E with v := regs [(4, 0x17)], keys := 0x0080 } (fun t => t.pc == 0x204) = true := by
  decide +kernel

/-- SK12. -/
theorem test_skp_no :
    runs { placed 0xE49E with v := regs [(4, 0x07)], keys := 0xFF7F } (fun t => t.pc == 0x202) = true := by
  decide +kernel

/-- SK13. -/
theorem test_sknp_no :
    runs { placed 0xE4A1 with v := regs [(4, 0x07)], keys := 0x0080 } (fun t => t.pc == 0x202) = true := by
  decide +kernel

/-- SK14. -/
theorem test_sknp :
    runs { placed 0xE4A1 with v := regs [(4, 0xFF)], keys := 0x7FFF } (fun t => t.pc == 0x204) = true := by
  decide +kernel

/-! ### ALU (95 AL) -/

/-- AL1. -/
theorem test_ld :
    runs { placed 0x8010 with v := regs [(1, 0xAB), (15, 0x55)] } fun t =>
      (t.v == regs [(0, 0xAB), (1, 0xAB), (15, 0x55)]) = true := by decide +kernel

/-- AL2. -/
theorem test_or :
    runs { placed 0x8011 with v := regs [(0, 0xF0), (1, 0x0F), (15, 0x55)] } (fun t =>
      t.v == regs [(0, 0xFF), (1, 0x0F), (15, 0x55)]) = true := by decide +kernel

/-- AL3. -/
theorem test_and :
    runs { placed 0x8012 with v := regs [(0, 0xFC), (1, 0x3F), (15, 0x55)] } (fun t =>
      t.v == regs [(0, 0x3C), (1, 0x3F), (15, 0x55)]) = true := by decide +kernel

/-- AL4. -/
theorem test_xor :
    runs { placed 0x8013 with v := regs [(0, 0xFF), (1, 0x0F), (15, 0x55)] } (fun t =>
      t.v == regs [(0, 0xF0), (1, 0x0F), (15, 0x55)]) = true := by decide +kernel

/-- AL5. -/
theorem test_xor_same :
    runs { placed 0x8773 with v := regs [(7, 0xC3)] } (fun t => t.v == regs []) = true := by decide +kernel

/-- AL6. -/
theorem test_add :
    runs { placed 0x8234 with v := regs [(2, 0xFF), (3, 1)] } (fun t => t.v == regs [(3, 1), (15, 1)]) = true := by
  decide +kernel

/-- AL9. -/
theorem test_add_flag_wins :
    runs { placed 0x8F04 with v := regs [(15, 0xFF), (0, 1)] } (fun t => t.v == regs [(15, 1), (0, 1)]) = true := by
  decide +kernel

/-- AL13. -/
theorem test_sub :
    runs { placed 0x8015 with v := regs [(0, 3), (1, 5), (15, 1)] } (fun t =>
      t.v == regs [(0, 0xFE), (1, 5)]) = true := by decide +kernel

/-- AL14. -/
theorem test_sub_equal :
    runs { placed 0x8015 with v := regs [(0, 7), (1, 7)] } (fun t => t.v == regs [(1, 7), (15, 1)]) = true := by
  decide +kernel

/-- AL17. -/
theorem test_subn :
    runs { placed 0x8017 with v := regs [(0, 3), (1, 5)] } (fun t => t.v == regs [(0, 2), (1, 5), (15, 1)]) = true := by
  decide +kernel

/-- AL18. -/
theorem test_subn_borrow :
    runs { placed 0x8017 with v := regs [(0, 5), (1, 3), (15, 1)] } (fun t =>
      t.v == regs [(0, 0xFE), (1, 3)]) = true := by decide +kernel

/-- AL20. -/
theorem test_shr :
    runs { placed 0x8016 with v := regs [(0, 5), (1, 0xF0)] } fun t =>
      (t.v == regs [(0, 2), (1, 0xF0), (15, 1)]) = true := by decide +kernel

/-- AL21. -/
theorem test_shr_quirk :
    runs { placed 0x8016 with v := regs [(0, 5), (1, 0xF0), (15, 1)], cfg := { standardConfig with quirkShiftVy := true } } (fun t =>
      t.v == regs [(0, 0x78), (1, 0xF0)]) = true := by decide +kernel

/-- AL24. -/
theorem test_shl :
    runs { placed 0x801E with v := regs [(0, 0x81), (1, 1)] } fun t =>
      (t.v == regs [(0, 2), (1, 1), (15, 1)]) = true := by decide +kernel

/-- AL25. -/
theorem test_shl_quirk :
    runs { placed 0x801E with v := regs [(0, 0x81), (1, 1), (15, 1)], cfg := { standardConfig with quirkShiftVy := true } } (fun t =>
      t.v == regs [(0, 2), (1, 1)]) = true := by decide +kernel

/-! ### Immediates, index, random (95 IM) -/

/-- IM1. -/
theorem test_ld_byte :
    runs { placed 0x6A7F with v := regs [] } (fun t => t.v == regs [(10, 0x7F)]) = true := by decide +kernel

/-- IM3. -/
theorem test_add_byte :
    runs { placed 0x7002 with v := regs [(0, 0xFF)] } (fun t => t.v == regs [(0, 1)]) = true := by decide +kernel

/-- IM5. -/
theorem test_add_byte_vf :
    runs { placed 0x7F01 with v := regs [(15, 0xFF)] } (fun t => t.v == regs []) = true := by decide +kernel

/-- IM6. -/
theorem test_ld_i : runs (placed 0xAFFF) (fun t => t.i == 0xFFF) = true := by decide +kernel

/-- IM7. -/
theorem test_add_i :
    runs { placed 0xF11E with i := 0x0FFF, v := regs [(1, 1)] } fun t =>
      (t.i == 0x1000 && t.v == regs [(1, 1)]) = true := by decide +kernel

/-- IM8. -/
theorem test_add_i_wraps :
    runs { placed 0xF11E with i := 0xFFFF, v := regs [(1, 2)] } (fun t => t.i == 1 && t.v == regs [(1, 2)]) = true := by
  decide +kernel

/-- IM10: the mask 0 gives 0, whatever byte arrives. -/
theorem test_rnd_zero_mask :
    ∃ t, exec (.rndVxByte 3 0x00) State.reset = .next t ∧ t.v[3] = 0 ∧ t.rndIndex = 1 := ⟨_, rfl, BitVec.and_zero, rfl⟩

/-- IM11: the mask `0xFF` gives the byte that arrived. -/
theorem test_rnd_full_mask :
    ∃ t, exec (.rndVxByte 3 0xFF) State.reset = .next t ∧ t.v[3] = Config.randomByte 0 := ⟨_, rfl, BitVec.and_allOnes⟩

/-! ### Drawing (95 DR; 45 R164) -/

/-- DR1. -/
theorem test_drw_glyph :
    runs { placed 0xD015 with i := 0x050 } (fun t =>
      t.fb == cells [0, 1, 2, 3, 64, 67, 128, 131, 192, 195, 256, 257, 258, 259] &&
      t.v[15] == 0 && t.drawFlag) = true := by decide +kernel

/-- DR3. -/
theorem test_drw_collision :
    runs { placed 0xD015 with i := 0x055, fb := cells [0, 1, 2, 3, 64, 67, 128, 131, 192, 195, 256, 257, 258, 259] } (fun t =>
      t.fb == cells [0, 1, 3, 64, 67, 128, 131, 192, 195, 256, 65, 66, 130, 194] &&
      t.v[15] == 1) = true := by decide +kernel

/-- 45 R164, per-axis wrap. -/
theorem test_drw_wraps :
    spriteCells standardConfig 62 30 0 [0xF0, 0x10, 0xF0, 0x10, 0xF0] =
      [1982, 1983, 1920, 1921, 1985, 62, 63, 0, 1, 65, 190, 191, 128, 129] := by decide +kernel

/-- 45 R164, flat wrap. -/
theorem test_drw_flat_wrap :
    spriteCells { standardConfig with quirkFlatWrap := true } 62 30 0 [0xF0, 0x10, 0xF0, 0x10, 0xF0] =
      [1982, 1983, 1984, 1985, 1, 62, 63, 64, 65, 129, 190, 191, 192, 193] := by decide +kernel

/-- DR12. -/
theorem test_cls :
    runs { placed 0x00E0 with fb := cells [0, 5, 2047], v := regs [(15, 1)] } fun t =>
      (t.fb == cells [] && t.drawFlag && t.v[15] == 1) = true := by decide +kernel

/-! ### BCD, bulk, font (95 BC) -/

/-- BC4. -/
theorem test_ld_b :
    runs { placed 0xF533 with i := 0xFFD, v := regs [(5, 0x7B)] } fun t =>
      ([byteAt t 0xFFD, byteAt t 0xFFE, byteAt t 0xFFF] == [1, 2, 3]) = true := by decide +kernel

/-- BC5. -/
theorem test_ld_b_outside :
    fails { placed 0xF533 with i := 0xFFE, v := regs [(5, 0x7B)] } (.outOfBounds 0x1000) = true := by decide +kernel

/-- BC6. -/
theorem test_ld_mem :
    runs { placed 0xF255 with i := 0x300, v := regs [(0, 0x11), (1, 0x22), (2, 0x33), (3, 0x44)] } fun t =>
      ([byteAt t 0x300, byteAt t 0x301, byteAt t 0x302, byteAt t 0x303] == [0x11, 0x22, 0x33, 0]) = true := by
  decide +kernel

/-- BC9. -/
theorem test_ld_mem_outside : fails { placed 0xFF55 with i := 0xFF1 } (.outOfBounds 0x1000) = true := by decide +kernel

/-- BC11: reads the font. -/
theorem test_ld_vx_mem :
    runs { placed 0xFF65 with i := 0x050 } (fun t =>
      t.v.toList == [0xF0, 0x90, 0x90, 0x90, 0xF0, 0x20, 0x60, 0x20, 0x20, 0x70,
      0xF0, 0x10, 0xF0, 0x80, 0xF0, 0xF0]) = true := by decide +kernel

/-- BC12. -/
theorem test_ld_vx_mem_outside :
    fails { placed 0xF165 with i := 0xFFF } (.outOfBounds 0x1000) = true := by decide +kernel

/-- BC16. -/
theorem test_ld_f :
    runs { placed 0xF229 with v := regs [(2, 0x1A)] } (fun t => t.i == 0x082) = true := by decide +kernel

/-! ### Timers, key wait, SYS, Unknown (95 TM, KW, SU) -/

/-- TM1. -/
theorem test_ld_vx_dt :
    runs { placed 0xF307 with dt := 5 } (fun t => t.v[3] == 5 && t.dt == 4) = true := by decide +kernel

/-- TM3. -/
theorem test_ld_dt : runs { placed 0xF015 with v := regs [(0, 3)] } (fun t => t.dt == 2) = true := by decide +kernel

/-- TM7. -/
theorem test_ld_st :
    runs { placed 0xF118 with v := regs [(1, 0xFF)], dt := 1 } (fun t => t.dt == 0 && t.st == 0xFE) = true := by
  decide +kernel

/-- KW4. -/
theorem test_key_wait_goes_on :
    runs { placed 0xF00A with waiting := true, kprev := 0x0008, keys := 0x0008, dt := 5 } fun t =>
      (t == { placed 0xF00A with waiting := true, kprev := 0x0008, keys := 0x0008, dt := 5 }) = true := by
  decide +kernel

/-- KW6. -/
theorem test_key_wait_ends :
    runs { placed 0xF50A with waiting := true, keys := 0x8204 } (fun t =>
      t.v == regs [(5, 2)] && t.pc == 0x202 && !t.waiting && t.kprev == 0x8204) = true := by decide +kernel

/-- KW2. -/
theorem test_key_wait_status : status { placed 0xF00A with keys := 0x0008 } = some .awaitingKey := by decide +kernel

/-- SU3. -/
theorem test_sys : status (placed 0x00EF) = some .ok := by decide +kernel

/-- TM8. -/
theorem test_sys_ticks :
    runs { placed 0x0000 with dt := 1, st := 2 } (fun t => t.pc == 0x202 && t.dt == 0 && t.st == 1) = true := by
  decide +kernel

/-- SU10. -/
theorem test_unknown : status { placed 0xFFFF with waiting := true } = some (.unknownOpcode 0xFFFF) := by decide +kernel

/-- CF10. -/
theorem test_fetch_outside : fails { State.reset with pc := 0x10FE } (.outOfBounds 0x10FE) = true := by decide +kernel

/-! ### Witnesses: a concrete case that meets the hypotheses of each statement, and of each clause of it -/

theorem witness_DecodeOfEncode :
    (Instr.sys 0x0ED).wellFormed = true ∧ (Instr.sys 0x0EF).wellFormed = true ∧
      (Instr.drw 15 15 15).wellFormed = true := by decide

theorem witness_DecodedWordIsItsEncoding : decode 0x1FFF = .instr (.jp 0xFFF) ∧ encode (.jp 0xFFF) = 0x1FFF := by decide

theorem witness_DecodedWordIsItsEncoding_ignored :
    decode 0x512F = .instr (.seVxVy 1 2) ∧ encode (.seVxVy 1 2) = 0x512F &&& 0xFFF0 ∧
      decode 0x9AB1 = .instr (.sneVxVy 10 11) ∧ encode (.sneVxVy 10 11) = 0x9AB1 &&& 0xFFF0 := by decide

theorem witness_UnknownWordsExactly :
    decode 0x800F = .unknown 0x800F ∧ decode 0xE09D = .unknown 0xE09D ∧ decode 0xFF64 = .unknown 0xFF64 ∧
      decode 0x800E ≠ .unknown 0x800E ∧ decode 0xE09E ≠ .unknown 0xE09E ∧ decode 0xFF65 ≠ .unknown 0xFF65 := by decide

theorem witness_FetchIsBigEndian :
    (placedAt 0xFFE 0x3000).pc.toNat ≤ 0xFFE ∧ (placedAt 0x301 0x6A55).pc.toNat ≤ 0xFFE := by decide +kernel

theorem witness_FetchAboveTopFaults :
    0xFFE < (placedAt 0xFFF 0).pc.toNat ∧ 0xFFE < (placedAt 0xFFFF 0).pc.toNat := by decide +kernel

theorem witness_StepRunsDecodedInstruction :
    (placedAt 0xFFE 0x3000).pc.toNat ≤ 0xFFE ∧
      decode (wordOfBytes (byteAt (placedAt 0xFFE 0x3000) 0xFFE) (byteAt (placedAt 0xFFE 0x3000) 0xFFF)) =
        .instr (.seVxByte 0 0) := by decide +kernel

theorem witness_UnknownIsReportedNoOp :
    fetch { placed 0xFFFF with waiting := true } = .ok 0xFFFF ∧ decode 0xFFFF = .unknown 0xFFFF := by decide +kernel

theorem witness_TimersCountCompletedSteps_waiting :
    fetch { placed 0xF00A with dt := 5 } = .ok 0xF00A ∧
      ∃ t, step { placed 0xF00A with dt := 5 } = .next t ∧ t.waiting = true :=
  ⟨by decide +kernel, runs_next (by decide +kernel)⟩

theorem witness_TimersCountCompletedSteps_other :
    fetch { placed 0x1200 with dt := 1 } = .ok 0x1200 ∧ decode 0x1200 = .instr (.jp 0x200) ∧
      ∃ t, step { placed 0x1200 with dt := 1 } = .next t ∧ t.waiting = false :=
  ⟨by decide +kernel, by decide +kernel, runs_next (by decide +kernel)⟩

theorem witness_TimersCountCompletedSteps_dt :
    fetch (placed 0xF015) = .ok 0xF015 ∧ decode 0xF015 = .instr (.ldDtVx 0) ∧
      ∃ t, step (placed 0xF015) = .next t ∧ t.waiting = false :=
  ⟨by decide +kernel, by decide +kernel, runs_next (by decide +kernel)⟩

theorem witness_TimersCountCompletedSteps_st :
    fetch (placed 0xF118) = .ok 0xF118 ∧ decode 0xF118 = .instr (.ldStVx 1) ∧
      ∃ t, step (placed 0xF118) = .next t ∧ t.waiting = false :=
  ⟨by decide +kernel, by decide +kernel, runs_next (by decide +kernel)⟩

theorem witness_StepRunsDecodedInstruction_keyWait :
    { placed 0xF00A with waiting := true }.pc.toNat ≤ 0xFFE ∧
      decode (wordOfBytes (byteAt (placed 0xF00A) 0x200) (byteAt (placed 0xF00A) 0x201)) = .instr (.ldVxK 0) := by
  decide +kernel

theorem witness_StepStatus_outOfBounds :
    step { State.reset with pc := 0xFFFF } = .fault (.outOfBounds 0xFFFF) := fails_fault (by decide +kernel)

theorem witness_StepStatus_stackOverflow :
    step { placed 0x2200 with sp := 16 } = .fault (.stackOverflow 0x200) := fails_fault (by decide +kernel)

theorem witness_StepStatus_stackUnderflow :
    step (placed 0x00EE) = .fault (.stackUnderflow 0x200) := fails_fault (by decide +kernel)

theorem witness_StepStatus_waiting :
    fetch (placed 0xF00A) = .ok 0xF00A ∧
      ∃ t, step (placed 0xF00A) = .next t ∧ t.waiting = true := ⟨by decide +kernel, runs_next (by decide +kernel)⟩

theorem witness_StepStatus_unknown :
    fetch (placed 0x8018) = .ok 0x8018 ∧ decode 0x8018 = .unknown 0x8018 ∧
      ∃ t, step (placed 0x8018) = .next t ∧ t.waiting = false :=
  ⟨by decide +kernel, by decide +kernel, runs_next (by decide +kernel)⟩

theorem witness_StepStatus_ok :
    fetch (placed 0x0000) = .ok 0x0000 ∧ decode 0x0000 = .instr (.sys 0) ∧
      ∃ t, step (placed 0x0000) = .next t ∧ t.waiting = false :=
  ⟨by decide +kernel, by decide +kernel, runs_next (by decide +kernel)⟩

theorem witness_ErrorRepeats :
    step { placed 0x2200 with sp := 16 } = .fault (.stackOverflow 0x200) := fails_fault (by decide +kernel)

theorem witness_ErrorRepeats_fetch :
    step { State.reset with pc := 0xFFF } = .fault (.outOfBounds 0x1000) := fails_fault (by decide +kernel)

theorem witness_ErrorSources_call :
    does (.call 0x300) { State.reset with sp := 15 } (fun _ => true) = true ∧
      exec (.call 0x300) { State.reset with sp := 16 } = .fault (.stackOverflow 0x1FE) := ⟨by decide +kernel, rfl⟩

theorem witness_ErrorSources_ret :
    does .ret { State.reset with sp := 1 } (fun _ => true) = true ∧
      exec .ret State.reset = .fault (.stackUnderflow 0x1FE) := ⟨by decide +kernel, rfl⟩

theorem witness_ErrorSources_drw :
    does (.drw 0 0 0) { State.reset with i := 0xFFFF } (fun _ => true) = true ∧
      does (.drw 0 0 3) { State.reset with i := 0xFFD } (fun _ => true) = true ∧
      exec (.drw 0 0 3) { State.reset with i := 0xFFE } = .fault (.outOfBounds 0x1000) :=
  ⟨by decide +kernel, by decide +kernel, rfl⟩

theorem witness_ErrorSources_memory :
    exec (.ldBVx 5) { State.reset with i := 0xFFE } = .fault (.outOfBounds 0x1000) ∧
      exec (.ldMemVx 15) { State.reset with i := 0xFF1 } = .fault (.outOfBounds 0x1000) ∧
      exec (.ldVxMem 0) { State.reset with i := 0xFFFF } = .fault (.outOfBounds 0xFFFF) := ⟨rfl, rfl, rfl⟩

theorem witness_WaitingStepChangesOnlyTheWait :
    ∃ t, step { placed 0xF00A with keys := 0x0008 } = .next t ∧ t.waiting = true := runs_next (by decide +kernel)

theorem witness_OnlyRndReadsTheRandomByte :
    ∀ w x kk, fetch (placed 0x0000) = .ok w → decode w ≠ .instr (.rndVxByte x kk) := by
    intro w x kk h
    rw [show fetch (placed 0x0000) = .ok 0x0000 by decide +kernel] at h
    cases h
    rw [show decode 0x0000 = .instr (.sys 0) by decide]
    simp

theorem witness_FramebufferWriters_frame :
    fetch (placed 0x1200) = .ok 0x1200 ∧ decode 0x1200 = .instr (.jp 0x200) ∧
      ∃ t, step (placed 0x1200) = .next t ∧ t.pc = 0x200 :=
  ⟨by decide +kernel, by decide +kernel, runs_next (by decide +kernel)⟩

theorem witness_FramebufferWriters_flag :
    fetch { placed 0xD010 with drawFlag := true } = .ok 0xD010 ∧
      ∃ t, step { placed 0xD010 with drawFlag := true } = .next t ∧ t.drawFlag = true :=
  ⟨by decide +kernel, runs_next (by decide +kernel)⟩

theorem witness_MemoryWriters :
    fetch (placed 0xFF65) = .ok 0xFF65 ∧ decode 0xFF65 = .instr (.ldVxMem 15) ∧
      ∃ t, step (placed 0xFF65) = .next t ∧ t.pc = 0x202 :=
  ⟨by decide +kernel, by decide +kernel, runs_next (by decide +kernel)⟩

theorem witness_StackWriters :
    fetch (placed 0x1200) = .ok 0x1200 ∧ decode 0x1200 = .instr (.jp 0x200) ∧
      ∃ t, step (placed 0x1200) = .next t ∧ t.pc = 0x200 :=
  ⟨by decide +kernel, by decide +kernel, runs_next (by decide +kernel)⟩

theorem witness_StackWriters_ret :
    fetch { placed 0x00EE with sp := 16 } = .ok 0x00EE ∧ decode 0x00EE = .instr .ret ∧
      ∃ t, step { placed 0x00EE with sp := 16 } = .next t ∧ t.sp = 15 :=
  ⟨by decide +kernel, by decide +kernel, runs_next (by decide +kernel)⟩

theorem witness_IndexWriters :
    fetch (placed 0xFF55) = .ok 0xFF55 ∧ decode 0xFF55 = .instr (.ldMemVx 15) ∧
      ∃ t, step (placed 0xFF55) = .next t ∧ t.pc = 0x202 :=
  ⟨by decide +kernel, by decide +kernel, runs_next (by decide +kernel)⟩

theorem witness_StepLeavesKeypadAndParameters :
    fetch { placed 0xE09E with keys := 1 } = .ok 0xE09E ∧ decode 0xE09E = .instr (.skp 0) ∧
      ∃ t, step { placed 0xE09E with keys := 1 } = .next t ∧ t.pc = 0x204 :=
  ⟨by decide +kernel, by decide +kernel, runs_next (by decide +kernel)⟩

theorem witness_FlagRegisterWriters_flag :
    ∃ t, exec (.addVxVy 15 15) State.reset = .next t ∧ t.v[15] = 0 := does_next (by decide +kernel)

theorem witness_FlagRegisterWriters_destination :
    ∃ t, exec (.ldVxByte 14 0xFF) State.reset = .next t ∧ t.v[14] = 0xFF := does_next (by decide +kernel)

theorem witness_FlagRegisterWriters_none :
    ∃ t, exec (.ldIAddr 0xFFF) State.reset = .next t ∧ t.i = 0xFFF := does_next (by decide +kernel)

theorem witness_StepKeepsSound : ∃ t, step State.reset = .next t ∧ t.pc = 0x202 := runs_next (by decide +kernel)

theorem witness_StepKeepsSound_sound :
    Sound State.reset := ⟨rfl, memoryOk_resetWith _ _, List.length_replicate, by decide, by decide⟩

theorem witness_SessionKeepsSound :
    Sound State.reset ∧ ∃ t, session [.step, .setKeys 0xFFFF, .loadProgram [0x12, 0x00], .ackFrame, .reset, .step]
      State.reset = .ok t := ⟨witness_StepKeepsSound_sound, _, rfl⟩

theorem witness_ResetValues :
    { State.reset with pc := 0x10FE, sp := 16, waiting := true }.cfg = State.reset.cfg ∧
      { State.reset with pc := 0x10FE, sp := 16, waiting := true }.rndIndex = State.reset.rndIndex := ⟨rfl, rfl⟩

theorem witness_LoadProgramWritesTheImage :
    (List.replicate 3584 (0xAA : Byte)).length ≤ 3584 ∧ 3583 < (List.replicate 3584 (0xAA : Byte)).length ∧
      3584 < (List.replicate 3585 (0xAA : Byte)).length := by
  rw [List.length_replicate, List.length_replicate]; decide

theorem witness_CallPushesAndJumps :
    { State.reset with sp := 15 }.sp.val < 16 ∧ { State.reset with sp := 16 }.sp.val = 16 := by decide +kernel

theorem witness_RetPopsPc :
    0 < { State.reset with sp := 16 }.sp.val ∧ (15 : Fin 16).val + 1 = { State.reset with sp := 16 }.sp.val ∧
      0 < { State.reset with sp := 1 }.sp.val ∧ State.reset.sp.val = 0 := by decide +kernel

theorem witness_CallThenRetReturns :
    State.reset.sp.val < 16 ∧ { State.reset with sp := 15 }.sp.val < 16 := by decide +kernel

/-- For the clauses `x ≠ flagReg` and `j ≠ x` of the ALU, immediate, random and timer statements. -/
theorem witness_AluDestination : (14 : RegIdx) ≠ flagReg ∧ (0 : RegIdx) ≠ 15 ∧ ¬ ((15 : RegIdx) ≠ flagReg) := by decide

theorem witness_ShrShiftsRight :
    (State.reset.cfg.quirkShiftVy = false → (0 : Byte) = State.reset.v[0]) ∧
      (State.reset.cfg.quirkShiftVy = true → (0 : Byte) = State.reset.v[1]) := by decide +kernel

/-- A state with `QUIRK_SHIFT_VY` on. -/
def quirky : State := { State.reset with v := regs [(1, 0xF0)], cfg := { standardConfig with quirkShiftVy := true } }

/-- The quirk on: the operand is `V[y]`. The same state serves `SHR`. -/
theorem witness_ShlShiftsLeft :
    (quirky.cfg.quirkShiftVy = false → (0xF0 : Byte) = quirky.v[0]) ∧
      (quirky.cfg.quirkShiftVy = true → (0xF0 : Byte) = quirky.v[1]) := by decide +kernel

theorem witness_PixelAddress :
    standardConfig.wf = true ∧ standardConfig.quirkFlatWrap = false ∧ 56 + 7 < standardConfig.fbW ∧
      30 + 1 < standardConfig.fbH := by decide +kernel

theorem witness_PixelAddress_flat :
    { standardConfig with fbW := 1, fbH := 1, quirkFlatWrap := true }.wf = true := by decide +kernel

theorem witness_DrwTogglesAndDetectsCollision :
    ConfigOk State.reset ∧ FrameOk State.reset ∧ { State.reset with i := 0xFFD }.i.toNat + (3 : Nibble).toNat - 1 ≤ 0xFFF ∧
      ¬ ({ State.reset with i := 0xFFE }.i.toNat + (3 : Nibble).toNat - 1 ≤ 0xFFF) := by decide +kernel

/-- A plotted cell that is toggled. -/
theorem witness_DrwTogglesAndDetectsCollision_cells :
    plottedCells { State.reset with i := 0x05F } 62 30 2 = [1982, 1983, 1920, 1921, 1985] ∧
      [1982, 1983, 1920, 1921, 1985].count 1985 % 2 = 1 := by decide +kernel

/-- The reset state of a machine with the smallest grid of 45 R162 (d), `I` at glyph 0. -/
def small : State := { State.resetWith { standardConfig with fbW := 8, fbH := 15 } 0 with i := 0x050 }

theorem witness_DrwCollisionOnWideGrid :
    FrameOk small ∧ 8 ≤ small.cfg.fbW ∧ 15 ≤ small.cfg.fbH ∧
      ∃ t, exec (.drw 1 2 5) small = .next t ∧ t.v[15] = 0 :=
  ⟨by decide +kernel, by decide +kernel, by decide +kernel, does_next (by decide +kernel)⟩

theorem witness_DrwTwiceRestores :
    ConfigOk (placed 0xD125) ∧ FrameOk (placed 0xD125) ∧
      ∃ t u, exec (.drw 1 2 5) { placed 0xD125 with i := 0x05F } = .next t ∧ t.v[1] = 0 ∧ t.v[2] = 0 ∧
        exec (.drw 1 2 5) t = .next u ∧ u.v[15] = 1 := ⟨by decide +kernel, by decide +kernel,
    drawSprite { placed 0xD125 with i := 0x05F } 0 0 (bytesAt { placed 0xD125 with i := 0x05F } 0x05F 5), _,
    rfl, by decide +kernel, by decide +kernel, rfl, by decide +kernel⟩

theorem witness_LdBStoresDigits :
    { State.reset with i := 0xFFD }.i.toNat + 2 ≤ 4095 ∧ 4095 < { State.reset with i := 0xFFE }.i.toNat + 2 := by
  decide +kernel

theorem witness_LdMemStoresRegisters :
    { State.reset with i := 0xFF0 }.i.toNat + (15 : RegIdx).val ≤ 4095 ∧
      4095 < { State.reset with i := 0xFF1 }.i.toNat + (15 : RegIdx).val := by decide +kernel

theorem witness_LdVxMemLoadsRegisters :
    { State.reset with i := 0xFFF }.i.toNat + (0 : RegIdx).val ≤ 4095 ∧
      4095 < { State.reset with i := 0xFFF }.i.toNat + (1 : RegIdx).val := by decide +kernel

theorem witness_BulkRoundTrip : { State.reset with i := 0xFF0 }.i.toNat + (15 : RegIdx).val ≤ 4095 := by decide +kernel

theorem witness_LdVxDtReadsTimer :
    fetch (placed 0xF307) = .ok 0xF307 ∧ decode 0xF307 = .instr (.ldVxDt 3) := by decide +kernel

theorem witness_TimerWrites :
    fetch (placed 0xF015) = .ok 0xF015 ∧ decode 0xF015 = .instr (.ldDtVx 0) ∧
      fetch (placed 0xFF18) = .ok 0xFF18 ∧ decode 0xFF18 = .instr (.ldStVx 15) := by decide +kernel

/-- The wait not yet armed, or armed with every key that is down already seen. -/
theorem witness_KeyWait_arms :
    State.reset.waiting = false ∧
      ∀ j : Fin 16, (0x8001 : BitVec 16).getLsbD j.val = true → (0x8001 : BitVec 16).getLsbD j.val = true := by
  decide +kernel

/-- Keys 2, 9 and 15 newly pressed: key 2 is taken (95 KW6). -/
theorem witness_KeyWait_takes :
    { State.reset with waiting := true, keys := 0x8204 }.waiting = true ∧ (0x8204 : BitVec 16).getLsbD 2 = true ∧
      State.reset.kprev.getLsbD 2 = false ∧
      ∀ k : RegIdx, k < 2 → (0x8204 : BitVec 16).getLsbD k.val = true → State.reset.kprev.getLsbD k.val = true := by
  decide +kernel

/-- With the two witnesses above, for the clauses about a step: the word at `pc`, waiting and not yet waiting. -/
theorem witness_KeyWait_step :
    fetch { placed 0xF50A with waiting := true, keys := 0x8204 } = .ok 0xF50A ∧
      decode 0xF50A = .instr (.ldVxK 5) ∧ (placed 0xF50A).waiting = false := by decide +kernel

theorem witness_SysIsNoOp :
    (0x0EF : Addr) ≠ 0x0E0 ∧ (0x0EF : Addr) ≠ 0x0EE ∧ fetch (placed 0x00EF) = .ok 0x00EF ∧
      decode 0x00EF = .instr (.sys 0x0EF) := by decide +kernel

end Sys2Proof.Tests
end

section
/-! The obligations of the memory rules (spec 20). -/

namespace Sys2Proof.Proofs
open Sys2Proof Sys2Proof.Machine

/-- Settles O5: a fetch within `0xFFE` gives the word of the two bytes at `pc` (`fetch_inside`), whose value is
big-endian (`toNat_wordOfBytes`). -/
theorem fetchIsBigEndian : Obligations.FetchIsBigEndian :=
  fun _ hpc => ⟨_, fetch_inside hpc, toNat_wordOfBytes _ _⟩

end Sys2Proof.Proofs
end

section
/-! The obligations of the control-flow rules (spec 41). -/

namespace Sys2Proof.Proofs
open Sys2Proof Sys2Proof.Machine

theorem toNat_addrWord (nnn : Addr) : (addrWord nnn).toNat = nnn.toNat :=
  BitVec.toNat_setWidth_of_le (by decide)

theorem toNat_byteWord (b : Byte) : (byteWord b).toNat = b.toNat :=
  BitVec.toNat_setWidth_of_le (by decide)

/-- A jump's whole frame: no field but `pc`, and no byte as memory reads it. -/
theorem onlyPc_jumpTo (s : State) (w : Word) : OnlyPc s (jumpTo s w) :=
  ⟨rfl, byteAt_congr (jumpTo_cfg s w) (jumpTo_mem s w)⟩

/-- Branch 1 (30 R77). -/
theorem decode_wordNNN_jp (nnn : Addr) : decode (wordNNN 0x1 nnn) = .instr (.jp nnn) := by
  simp [decode]

/-- Branch B (30 R77). -/
theorem decode_wordNNN_jpV0Addr (nnn : Addr) : decode (wordNNN 0xB nnn) = .instr (.jpV0Addr nnn) := by
  simp [decode]

/-- Settles O28: `JP` is a jump to the zero-extended address, and a jump writes `pc` alone (`onlyPc_jumpTo`). -/
theorem jpSetsPc : Obligations.JpSetsPc :=
  fun nnn s => ⟨decode_wordNNN_jp nnn, jumpTo s (addrWord nnn), rfl, toNat_addrWord nnn, onlyPc_jumpTo s _⟩

/-- Settles O32: the target is a sum of two words, whose value is the sum of their values modulo 65536; a jump writes
`pc` alone (`onlyPc_jumpTo`). -/
theorem jpV0AddsV0 : Obligations.JpV0AddsV0 := by
  intro nnn s
  have target : (addrWord nnn + byteWord (readV s 0)).toNat = (nnn.toNat + (readV s 0).toNat) % 65536 := by
    rw [BitVec.toNat_add, toNat_addrWord, toNat_byteWord]
  exact ⟨decode_wordNNN_jpV0Addr nnn, jumpTo s (addrWord nnn + byteWord (readV s 0)), rfl, target, onlyPc_jumpTo s _⟩

end Sys2Proof.Proofs
end

section
/-! The obligations of the skips (spec 42). -/

namespace Sys2Proof.Proofs
open Sys2Proof Sys2Proof.Machine

/-! ### Branches 3, 4, 5, 9 and E of the decoder (30 R77, R81, R83) -/

theorem decode_wordXKK_seVxByte (x : RegIdx) (kk : Byte) : decode (wordXKK 0x3 x kk) = .instr (.seVxByte x kk) := by
  simp [decode]

theorem decode_wordXKK_sneVxByte (x : RegIdx) (kk : Byte) : decode (wordXKK 0x4 x kk) = .instr (.sneVxByte x kk) := by
  simp [decode]

/-- The low nibble `n` is free (D12). -/
theorem decode_wordXYN_seVxVy (x y : RegIdx) (n : Nibble) : decode (wordXYN 0x5 x y n) = .instr (.seVxVy x y) := by
  simp [decode]

/-- The low nibble `n` is free (D12). -/
theorem decode_wordXYN_sneVxVy (x y : RegIdx) (n : Nibble) : decode (wordXYN 0x9 x y n) = .instr (.sneVxVy x y) := by
  simp [decode]

theorem decode_wordXKK_skp (x : RegIdx) : decode (wordXKK 0xE x 0x9E) = .instr (.skp x) := by
  simp [decode, decodeBranchE]

theorem decode_wordXKK_sknp (x : RegIdx) : decode (wordXKK 0xE x 0xA1) = .instr (.sknp x) := by
  simp [decode, decodeBranchE]

/-! ### What a skip does -/

/-- A skip's whole frame: no field but `pc`, and no byte as memory reads it. -/
theorem onlyPc_skipIf (s : State) (c : Bool) : OnlyPc s (skipIf s c) := by
  refine ⟨?_, byteAt_congr (skipIf_cfg s c) (skipIf_mem s c)⟩
  cases c <;> rfl

/-- A taken skip adds 2 modulo 65536; one not taken leaves `pc`. -/
theorem toNat_skipIf_pc (s : State) (c : Bool) :
    (skipIf s c).pc.toNat = if c then (s.pc.toNat + 2) % 65536 else s.pc.toNat := by
  cases c with
  | false => rfl
  | true => exact BitVec.toNat_add s.pc 2

/-- The six skips at once: a meaning that is `skipIf` on a condition `c` completes, writes `pc` alone, and skips exactly
when the proposition `p` that `c` decides holds. -/
theorem completes_of_skipIf {r : Result} {s : State} {c : Bool} {p : Prop} [Decidable p]
    (hr : r = .next (skipIf s c)) (hc : c = true ↔ p) :
    ∃ t, r = .next t ∧ OnlyPc s t ∧ t.pc.toNat = if p then (s.pc.toNat + 2) % 65536 else s.pc.toNat := by
  refine ⟨skipIf s c, hr, onlyPc_skipIf s c, ?_⟩
  simp only [toNat_skipIf_pc, hc]

/-! ### The obligations -/

/-- Settles O33: both meanings are `skipIf` (`completes_of_skipIf`) on the comparison of `V[x]` with the byte. -/
theorem skipsOnByte : Obligations.SkipsOnByte :=
  fun x kk _ => ⟨decode_wordXKK_seVxByte x kk, decode_wordXKK_sneVxByte x kk,
    completes_of_skipIf rfl beq_iff_eq, completes_of_skipIf rfl bne_iff_ne⟩

/-- Settles O34: both meanings are `skipIf` (`completes_of_skipIf`) on the comparison of `V[x]` with `V[y]`. -/
theorem skipsOnRegister : Obligations.SkipsOnRegister :=
  fun x y n _ => ⟨decode_wordXYN_seVxVy x y n, decode_wordXYN_sneVxVy x y n,
    completes_of_skipIf rfl beq_iff_eq, completes_of_skipIf rfl bne_iff_ne⟩

/-- Settles O35: both meanings are `skipIf` (`completes_of_skipIf`) on the key's level, the bit of the keypad at
`V[x] mod 16`, and on its negation. -/
theorem skipsOnKey : Obligations.SkipsOnKey :=
  fun x _ => ⟨decode_wordXKK_skp x, decode_wordXKK_sknp x,
    completes_of_skipIf rfl Iff.rfl, completes_of_skipIf rfl (Iff.of_eq (Bool.not_eq_true' _))⟩

end Sys2Proof.Proofs
end

section
/-! The obligations of register transfer and the ALU (spec 43). -/

namespace Sys2Proof.Proofs
open Sys2Proof Sys2Proof.Machine

/-! ### Branch 8 of the decoder (30 R80) -/

theorem decode_wordXYN_ldVxVy (x y : RegIdx) : decode (wordXYN 0x8 x y 0x0) = .instr (.ldVxVy x y) := by
  simp [decode, decodeBranch8]

theorem decode_wordXYN_orVxVy (x y : RegIdx) : decode (wordXYN 0x8 x y 0x1) = .instr (.orVxVy x y) := by
  simp [decode, decodeBranch8]

theorem decode_wordXYN_andVxVy (x y : RegIdx) : decode (wordXYN 0x8 x y 0x2) = .instr (.andVxVy x y) := by
  simp [decode, decodeBranch8]

theorem decode_wordXYN_xorVxVy (x y : RegIdx) : decode (wordXYN 0x8 x y 0x3) = .instr (.xorVxVy x y) := by
  simp [decode, decodeBranch8]

theorem decode_wordXYN_addVxVy (x y : RegIdx) : decode (wordXYN 0x8 x y 0x4) = .instr (.addVxVy x y) := by
  simp [decode, decodeBranch8]

theorem decode_wordXYN_subVxVy (x y : RegIdx) : decode (wordXYN 0x8 x y 0x5) = .instr (.subVxVy x y) := by
  simp [decode, decodeBranch8]

/-! ### What a register write does, without and with a flag -/

/-- A register write's whole frame: no field but `V`, and no byte as memory reads it. -/
theorem onlyRegisters_setV (s : State) (x : RegIdx) (b : Byte) : OnlyRegisters s (setV s x b) :=
  ⟨rfl, byteAt_congr (setV_cfg s x b) (setV_mem s x b)⟩

/-- The flag's write adds nothing to that frame: `VF` is a register too. -/
theorem onlyRegisters_writeResultFlag (s : State) (x : RegIdx) (b : Byte) (f : Bool) :
    OnlyRegisters s (writeResultFlag s x b f) :=
  ⟨rfl, byteAt_congr (writeResultFlag_cfg s x b f) (writeResultFlag_mem s x b f)⟩

/-- The flag as the statements of 43 print it. -/
theorem flagByte_decide (p : Prop) [Decidable p] : flagByte (decide p) = if p then 1 else 0 := by
  simp only [flagByte, decide_eq_true_eq]

/-- A byte difference modulo 256, the borrow added before the subtraction so that it stays in the naturals. -/
theorem toNat_byte_sub (a b : Byte) : (a - b).toNat = (a.toNat + 256 - b.toNat) % 256 := by
  have hb := b.isLt
  rw [BitVec.toNat_sub]
  omega

/-- The instructions without a flag at once: a meaning that is `setV` of a byte with property `P` completes, leaves
every other register, and `V[x]` has `P`. -/
theorem completes_of_setV {r : Result} {s : State} {x : RegIdx} {b : Byte} (P : Byte → Prop)
    (hr : r = .next (setV s x b)) (hb : P b) :
    ∃ t, r = .next t ∧ OnlyRegisters s t ∧ (∀ j, j ≠ x → t.v[j] = s.v[j]) ∧ P t.v[x] := by
  refine ⟨setV s x b, hr, onlyRegisters_setV s x b, fun j hj => ?others, ?result⟩
  case others => exact (readV_setV s x j b).trans (if_neg hj)
  case result =>
    change P (readV (setV s x b) x)
    rwa [readV_setV, if_pos rfl]

/-- The instructions with a flag at once: a meaning that is `writeResultFlag` of a byte with property `P` and a flag
with property `Q` completes and leaves every register but `V[x]` and `VF`; `VF` has `Q` for every `x`, and `V[x]` has
`P` unless it is `VF`, where the flag has won (43 R140). -/
theorem completes_of_writeResultFlag {r : Result} {s : State} {x : RegIdx} {b : Byte} {f : Bool}
    (P Q : Byte → Prop) (hr : r = .next (writeResultFlag s x b f)) (hb : P b) (hf : Q (flagByte f)) :
    ∃ t, r = .next t ∧ OnlyRegisters s t ∧ (∀ j, j ≠ x → j ≠ flagReg → t.v[j] = s.v[j]) ∧
      (x ≠ flagReg → P t.v[x]) ∧ Q t.v[flagReg] := by
  refine ⟨writeResultFlag s x b f, hr, onlyRegisters_writeResultFlag s x b f, fun j hx hF => ?others,
    fun hx => ?result, ?flag⟩
  case others => exact (readV_writeResultFlag s x j b f).trans ((if_neg hF).trans (if_neg hx))
  case result =>
    change P (readV (writeResultFlag s x b f) x)
    rwa [readV_writeResultFlag, if_neg hx, if_pos rfl]
  case flag =>
    change Q (readV (writeResultFlag s x b f) flagReg)
    rwa [readV_writeResultFlag, if_pos rfl]

/-! ### The obligations -/

/-- Settles O36: all four meanings are `setV` (`completes_of_setV`), of `V[y]` or of a bitwise operation on both
operands, which acts on each bit. -/
theorem transferAndLogic : Obligations.TransferAndLogic :=
  fun x y s => ⟨decode_wordXYN_ldVxVy x y, decode_wordXYN_orVxVy x y, decode_wordXYN_andVxVy x y,
    decode_wordXYN_xorVxVy x y,
    completes_of_setV (· = s.v[y]) rfl rfl,
    completes_of_setV (fun b => ∀ k, b.getLsbD k = (s.v[x].getLsbD k || s.v[y].getLsbD k)) rfl
      fun _ => BitVec.getLsbD_or,
    completes_of_setV (fun b => ∀ k, b.getLsbD k = (s.v[x].getLsbD k && s.v[y].getLsbD k)) rfl
      fun _ => BitVec.getLsbD_and,
    completes_of_setV (fun b => ∀ k, b.getLsbD k = (s.v[x].getLsbD k ^^ s.v[y].getLsbD k)) rfl
      fun _ => BitVec.getLsbD_xor⟩

/-- Settles O37: `ADD` is `writeResultFlag` (`completes_of_writeResultFlag`) of the byte sum, whose value is the sum
modulo 256, and of the carry, both from the old operands. -/
theorem addSetsCarry : Obligations.AddSetsCarry :=
  fun x y s => ⟨decode_wordXYN_addVxVy x y,
    completes_of_writeResultFlag (fun b => b.toNat = (s.v[x].toNat + s.v[y].toNat) % 256)
      (· = if 255 < s.v[x].toNat + s.v[y].toNat then 1 else 0) rfl (BitVec.toNat_add _ _) (flagByte_decide _)⟩

/-- Settles O38: `SUB` is `writeResultFlag` (`completes_of_writeResultFlag`) of the byte difference (`toNat_byte_sub`)
and of not-borrow, both from the old operands. -/
theorem subSetsNotBorrow : Obligations.SubSetsNotBorrow :=
  fun x y s => ⟨decode_wordXYN_subVxVy x y,
    completes_of_writeResultFlag (fun b => b.toNat = (s.v[x].toNat + 256 - s.v[y].toNat) % 256)
      (· = if s.v[y].toNat ≤ s.v[x].toNat then 1 else 0) rfl (toNat_byte_sub _ _) (flagByte_decide _)⟩

end Sys2Proof.Proofs
end

section
/-! The obligations of the immediates and the index register (spec 44). -/

namespace Sys2Proof.Proofs
open Sys2Proof Sys2Proof.Machine

/-! ### Branches 6, 7 and A, and `ADD I, Vx` of branch F (30 R77, R82) -/

theorem decode_wordXKK_ldVxByte (x : RegIdx) (kk : Byte) : decode (wordXKK 0x6 x kk) = .instr (.ldVxByte x kk) := by
  simp [decode]

theorem decode_wordXKK_addVxByte (x : RegIdx) (kk : Byte) : decode (wordXKK 0x7 x kk) = .instr (.addVxByte x kk) := by
  simp [decode]

theorem decode_wordNNN_ldIAddr (nnn : Addr) : decode (wordNNN 0xA nnn) = .instr (.ldIAddr nnn) := by
  simp [decode]

theorem decode_wordXKK_addIVx (x : RegIdx) : decode (wordXKK 0xF x 0x1E) = .instr (.addIVx x) := by
  simp [decode, decodeBranchF]

/-! ### What a write of `I` does -/

/-- An index write's whole frame: no field but `I`, and no byte as memory reads it. -/
theorem onlyIndex_setIndex (s : State) (w : Word) : OnlyIndex s (setIndex s w) :=
  ⟨rfl, byteAt_congr (setIndex_cfg s w) (setIndex_mem s w)⟩

/-- `I` plus a zero-extended byte wraps modulo 65536: the word sum keeps the bits above `0xFFF`. -/
theorem toNat_add_byteWord (w : Word) (b : Byte) : (w + byteWord b).toNat = (w.toNat + b.toNat) % 65536 := by
  rw [BitVec.toNat_add, toNat_byteWord]

/-! ### The obligations -/

/-- Settles O42: both meanings are `setV` (`completes_of_setV`), of the byte or of the byte sum, whose value is the sum
modulo 256. -/
theorem byteLoadAndAdd : Obligations.ByteLoadAndAdd :=
  fun x kk s => ⟨decode_wordXKK_ldVxByte x kk, decode_wordXKK_addVxByte x kk,
    completes_of_setV (· = kk) rfl rfl,
    completes_of_setV (fun b => b.toNat = (s.v[x].toNat + kk.toNat) % 256) rfl (BitVec.toNat_add _ _)⟩

/-- Settles O43: both meanings are `setIndex`, which writes `I` alone (`onlyIndex_setIndex`), of the zero-extended
address or of a word sum (`toNat_add_byteWord`); neither has a branch that answers an error. -/
theorem indexLoadAndAdd : Obligations.IndexLoadAndAdd :=
  fun nnn x s => ⟨decode_wordNNN_ldIAddr nnn, decode_wordXKK_addIVx x,
    ⟨setIndex s (addrWord nnn), rfl, onlyIndex_setIndex s _, toNat_addrWord nnn⟩,
    ⟨setIndex s (s.i + byteWord (readV s x)), rfl, onlyIndex_setIndex s _, toNat_add_byteWord s.i (readV s x)⟩⟩

end Sys2Proof.Proofs
end

section
/-! The obligations of BCD, bulk register transfer and font address (spec 46). -/

namespace Sys2Proof.Proofs
open Sys2Proof Sys2Proof.Machine

/-! ### Branch F of the decoder, the four rows of 46 (30 R82) -/

theorem decode_wordXKK_ldBVx (x : RegIdx) : decode (wordXKK 0xF x 0x33) = .instr (.ldBVx x) := by
  simp [decode, decodeBranchF]

theorem decode_wordXKK_ldMemVx (x : RegIdx) : decode (wordXKK 0xF x 0x55) = .instr (.ldMemVx x) := by
  simp [decode, decodeBranchF]

theorem decode_wordXKK_ldVxMem (x : RegIdx) : decode (wordXKK 0xF x 0x65) = .instr (.ldVxMem x) := by
  simp [decode, decodeBranchF]

theorem decode_wordXKK_ldFVx (x : RegIdx) : decode (wordXKK 0xF x 0x29) = .instr (.ldFVx x) := by
  simp [decode, decodeBranchF]

/-- A number that fits the width loses nothing as a bit vector. -/
theorem toNat_ofNat_of_lt {w n : Nat} (h : n < 2 ^ w) : (BitVec.ofNat w n).toNat = n :=
  (BitVec.toNat_ofNat n w).trans (Nat.mod_eq_of_lt h)

/-! ### A run of bytes at `I`: the error, and what a store of the run does -/

/-- The three memory instructions' error at once: a run from `I` that leaves memory is an `OutOfBounds` whose `info`
loses nothing of the address, since `I` has 16 bits. -/
theorem withRun_outOfBounds (i : Word) {k : Nat} {r : Result} (hk : 1 ≤ k) (h : 4096 < i.toNat + k) :
    ∃ a : Word, withRun i.toNat k r = .fault (.outOfBounds a) ∧ a.toNat = max i.toNat 4096 := by
  have hmax : max i.toNat 4096 < 2 ^ 16 := Nat.max_lt.2 ⟨i.isLt, by decide⟩
  exact ⟨_, withRun_outside hk h, toNat_ofNat_of_lt hmax⟩

/-- A store's whole frame within memory: no field but memory, and no byte outside the run. -/
theorem onlyBytes_storeBytes {s : State} {base : Nat} {bs : List Byte} (h : base + bs.length ≤ 4096) :
    OnlyBytes s (storeBytes s base bs) base bs.length := by
  refine ⟨storeBytes_eq s base bs, fun a ha => ?_⟩
  rw [byteAt_storeBytes s base bs h, dif_neg (by omega)]

/-- Byte `j` of a run stored within memory. -/
theorem byteAt_storeBytes_add {s : State} {base : Nat} {bs : List Byte} (h : base + bs.length ≤ 4096) {j : Nat}
    (hj : j < bs.length) : byteAt (storeBytes s base bs) (base + j) = bs[j] := by
  rw [byteAt_storeBytes s base bs h, dif_pos (by omega)]
  simp only [Nat.add_sub_cancel_left]

/-! ### What the other operations write: digits, a register bank, a glyph's address -/

@[simp] theorem length_bcdDigits (v : Byte) : (bcdDigits v).length = 3 := rfl

/-- Each digit as a number: none is above 9, so its byte loses nothing. -/
theorem toNat_getElem_bcdDigits (v : Byte) :
    (bcdDigits v)[0].toNat = v.toNat / 100 ∧ (bcdDigits v)[1].toNat = v.toNat / 10 % 10 ∧
      (bcdDigits v)[2].toNat = v.toNat % 10 := by
  have hv := v.isLt
  refine ⟨toNat_ofNat_of_lt ?_, toNat_ofNat_of_lt ?_, toNat_ofNat_of_lt ?_⟩ <;> omega

/-- A bulk load's whole frame: no field but `V`, and no byte as memory reads it. -/
theorem onlyRegisters_loadRegs (s : State) (base : Nat) (x : RegIdx) : OnlyRegisters s (loadRegs s base x) :=
  ⟨rfl, byteAt_congr (loadRegs_cfg s base x) (loadRegs_mem s base x)⟩

/-- A glyph's address fits `I`: the last one is `0x050 + 5 * 15`. -/
theorem toNat_glyphAddr (d : RegIdx) : (glyphAddr d).toNat = 0x050 + 5 * d.val :=
  toNat_ofNat_of_lt (by omega)

/-! ### The obligations -/

/-- Settles O50: within memory `LD B` stores the three digits (`toNat_getElem_bcdDigits`) as a run at `I`
(`onlyBytes_storeBytes`, `byteAt_storeBytes_add`); beyond it the range check answers (`withRun_outOfBounds`). -/
theorem ldBStoresDigits : Obligations.LdBStoresDigits := by
  refine fun x s => ⟨decode_wordXKK_ldBVx x, fun h => ?inside, fun h => ?outside⟩
  case inside =>
    have run : s.i.toNat + (bcdDigits (readV s x)).length ≤ 4096 := by simp only [length_bcdDigits]; omega
    obtain ⟨hundreds, tens, units⟩ := toNat_getElem_bcdDigits (readV s x)
    refine ⟨_, withRun_inside (.inr run), onlyBytes_storeBytes run, ?_, ?_, ?_⟩
    · exact (congrArg BitVec.toNat (byteAt_storeBytes_add run (j := 0) (by simp))).trans hundreds
    · exact (congrArg BitVec.toNat (byteAt_storeBytes_add run (j := 1) (by simp))).trans tens
    · exact (congrArg BitVec.toNat (byteAt_storeBytes_add run (j := 2) (by simp))).trans units
  case outside => exact withRun_outOfBounds s.i (by omega) (by omega)

/-- Settles O51: within memory `LD [I]` stores the registers up to `V[x]` (`getElem_regsUpTo`) as a run at `I`
(`onlyBytes_storeBytes`, `byteAt_storeBytes_add`); beyond it the range check answers (`withRun_outOfBounds`). -/
theorem ldMemStoresRegisters : Obligations.LdMemStoresRegisters := by
  refine fun x s => ⟨decode_wordXKK_ldMemVx x, fun h => ?inside, fun h => ?outside⟩
  case inside =>
    have len := length_regsUpTo s x
    have run : s.i.toNat + (regsUpTo s x).length ≤ 4096 := by omega
    refine ⟨_, withRun_inside (by omega), len ▸ onlyBytes_storeBytes run, fun j hj => ?_⟩
    rw [byteAt_storeBytes_add run (len ▸ Nat.lt_succ_of_le hj), getElem_regsUpTo]
    rfl
  case outside => exact withRun_outOfBounds s.i (by omega) (by omega)

/-- Settles O52: within memory `LD Vx, [I]` is a bulk load, which writes `V` alone (`onlyRegisters_loadRegs`) and of it
the registers up to `V[x]` (`readV_loadRegs`); beyond it the range check answers (`withRun_outOfBounds`). -/
theorem ldVxMemLoadsRegisters : Obligations.LdVxMemLoadsRegisters := by
  refine fun x s => ⟨decode_wordXKK_ldVxMem x, fun h => ?inside, fun h => ?outside⟩
  case inside =>
    refine ⟨_, withRun_inside (by omega), onlyRegisters_loadRegs s s.i.toNat x, fun j hj => ?_, fun j hj => ?_⟩
    · exact (readV_loadRegs s s.i.toNat x j).trans (if_pos hj)
    · exact (readV_loadRegs s s.i.toNat x j).trans (if_neg (Nat.not_le.2 hj))
  case outside => exact withRun_outOfBounds s.i (by omega) (by omega)

/-- Settles O54: `LD F` is `setIndex`, which writes `I` alone (`onlyIndex_setIndex`), of the address of the glyph of
`V[x] mod 16` (`toNat_glyphAddr`). -/
theorem ldFPointsAtGlyph : Obligations.LdFPointsAtGlyph :=
  fun x s => ⟨decode_wordXKK_ldFVx x, setIndex s (glyphAddr (lowDigit (readV s x))), rfl, onlyIndex_setIndex s _,
    toNat_glyphAddr (lowDigit (readV s x))⟩

end Sys2Proof.Proofs
end

section
/-! The obligations of the timers (spec 47). -/

namespace Sys2Proof.Proofs
open Sys2Proof Sys2Proof.Machine

/-! ### Branch F of the decoder, the three timer rows of 47 (30 R82) -/

theorem decode_wordXKK_ldVxDt (x : RegIdx) : decode (wordXKK 0xF x 0x07) = .instr (.ldVxDt x) := by
  simp [decode, decodeBranchF]

theorem decode_wordXKK_ldDtVx (x : RegIdx) : decode (wordXKK 0xF x 0x15) = .instr (.ldDtVx x) := by
  simp [decode, decodeBranchF]

theorem decode_wordXKK_ldStVx (x : RegIdx) : decode (wordXKK 0xF x 0x18) = .instr (.ldStVx x) := by
  simp [decode, decodeBranchF]

/-! ### A completing step -/

/-- A step whose handler leaves `waiting` at 0 ends with the tick (40 R106). -/
theorem step_of_exec_not_waiting {s u : State} {w : Word} {i : Instr} (hf : fetch s = .ok w)
    (hd : decode w = .instr i) (he : exec i (enter (.instr i) s) = .next u) (hw : u.waiting = false) :
    step s = .next (tick u) := by
  rw [step_of_exec hf hd he, finish, if_neg (Bool.eq_false_iff.1 hw)]

/-- What the host hears after the tick: a count of 1 has already gone (40 R107). -/
theorem soundActive_tick (s : State) : soundActive (tick s) = true ↔ 2 ≤ s.st.toNat := by
  rw [soundActive, decide_eq_true_eq, tick_st, toNat_countDown]
  omega

/-! ### The obligations -/

/-- Settles O55: `LD Vx, DT` is `setV` of `DT` (`completes_of_setV`). Its step enters with `waiting` at 0 and so ends
with the tick (`step_of_exec_not_waiting`), which leaves `V` and counts `DT` down (`toNat_countDown`). -/
theorem ldVxDtReadsTimer : Obligations.LdVxDtReadsTimer := by
  refine fun x s => ⟨decode_wordXKK_ldVxDt x, completes_of_setV (· = s.dt) rfl rfl, fun w hf hd => ?step⟩
  case step =>
    have read : readV (setV (enter (.instr (.ldVxDt x)) s) x s.dt) x = s.dt := by rw [readV_setV, if_pos rfl]
    exact ⟨_, step_of_exec_not_waiting hf hd rfl (enter_waiting_instr (.ldVxDt x) s), read, toNat_countDown s.dt⟩

/-- Settles O56: both meanings write one timer and no byte of memory (`byteAt_congr`). Their steps enter with `waiting`
at 0 and so end with the tick (`step_of_exec_not_waiting`), which counts the value just written down
(`toNat_countDown`, `soundActive_tick`). -/
theorem timerWrites : Obligations.TimerWrites := by
  refine fun x s => ⟨decode_wordXKK_ldDtVx x, decode_wordXKK_ldStVx x, ⟨_, rfl, rfl, byteAt_congr rfl rfl⟩,
    ⟨_, rfl, rfl, byteAt_congr rfl rfl⟩, fun w hf hd => ?dtStep, fun w hf hd => ?stStep⟩
  case dtStep =>
    exact ⟨_, step_of_exec_not_waiting hf hd rfl (enter_waiting_instr (.ldDtVx x) s), toNat_countDown (readV s x)⟩
  case stStep =>
    exact ⟨_, step_of_exec_not_waiting hf hd rfl (enter_waiting_instr (.ldStVx x) s), toNat_countDown (readV s x),
      soundActive_tick _⟩

end Sys2Proof.Proofs
end

section
/-! The obligations of the encoding (spec 30). -/

namespace Sys2Proof.Proofs
open Sys2Proof Sys2Proof.Machine

/-! ### The rows of 30 R78 that no statement above has needed -/

/-- Two `NNN` words with the same top nibble differ in `nnn`. -/
theorem wordNNN_inj {op : Nibble} {a b : Addr} (h : wordNNN op a = wordNNN op b) : a = b := by
  simpa using congrArg fieldNNN h

/-- Branch 0 but for the words of `CLS` and `RET` (30 R79). -/
theorem decode_wordNNN_sys {nnn : Addr} (hcls : nnn ≠ 0x0E0) (hret : nnn ≠ 0x0EE) :
    decode (wordNNN 0x0 nnn) = .instr (.sys nnn) := by
  have notCls : wordNNN 0#4 nnn ≠ 0x00E0#16 := fun h => hcls (wordNNN_inj (b := 0x0E0) h)
  have notRet : wordNNN 0#4 nnn ≠ 0x00EE#16 := fun h => hret (wordNNN_inj (b := 0x0EE) h)
  simp [decode, decodeBranch0, notCls, notRet]

theorem decode_wordNNN_call (nnn : Addr) : decode (wordNNN 0x2 nnn) = .instr (.call nnn) := by
  simp [decode]

theorem decode_wordXYN_shrVxVy (x y : RegIdx) : decode (wordXYN 0x8 x y 0x6) = .instr (.shrVxVy x y) := by
  simp [decode, decodeBranch8]

theorem decode_wordXYN_subnVxVy (x y : RegIdx) : decode (wordXYN 0x8 x y 0x7) = .instr (.subnVxVy x y) := by
  simp [decode, decodeBranch8]

theorem decode_wordXYN_shlVxVy (x y : RegIdx) : decode (wordXYN 0x8 x y 0xE) = .instr (.shlVxVy x y) := by
  simp [decode, decodeBranch8]

theorem decode_wordXKK_rndVxByte (x : RegIdx) (kk : Byte) : decode (wordXKK 0xC x kk) = .instr (.rndVxByte x kk) := by
  simp [decode]

theorem decode_wordXYN_drw (x y : RegIdx) (n : Nibble) : decode (wordXYN 0xD x y n) = .instr (.drw x y n) := by
  simp [decode]

theorem decode_wordXKK_ldVxK (x : RegIdx) : decode (wordXKK 0xF x 0x0A) = .instr (.ldVxK x) := by
  simp [decode, decodeBranchF]

/-- Settles O1: each instruction's word decodes to it by the row of its own (`decode_wordNNN_jp` and its like); only
`SYS` needs its well-formedness, to differ from the words of `CLS` and `RET` (`decode_wordNNN_sys`). -/
theorem decodeOfEncode : Obligations.DecodeOfEncode
  | .sys _, wf => by
    obtain ⟨hcls, hret⟩ := Bool.and_eq_true_iff.1 wf
    exact decode_wordNNN_sys (bne_iff_ne.1 hcls) (bne_iff_ne.1 hret)
  | .cls, _ => rfl
  | .ret, _ => rfl
  | .jp nnn, _ => decode_wordNNN_jp nnn
  | .call nnn, _ => decode_wordNNN_call nnn
  | .seVxByte x kk, _ => decode_wordXKK_seVxByte x kk
  | .sneVxByte x kk, _ => decode_wordXKK_sneVxByte x kk
  | .seVxVy x y, _ => decode_wordXYN_seVxVy x y 0
  | .ldVxByte x kk, _ => decode_wordXKK_ldVxByte x kk
  | .addVxByte x kk, _ => decode_wordXKK_addVxByte x kk
  | .ldVxVy x y, _ => decode_wordXYN_ldVxVy x y
  | .orVxVy x y, _ => decode_wordXYN_orVxVy x y
  | .andVxVy x y, _ => decode_wordXYN_andVxVy x y
  | .xorVxVy x y, _ => decode_wordXYN_xorVxVy x y
  | .addVxVy x y, _ => decode_wordXYN_addVxVy x y
  | .subVxVy x y, _ => decode_wordXYN_subVxVy x y
  | .shrVxVy x y, _ => decode_wordXYN_shrVxVy x y
  | .subnVxVy x y, _ => decode_wordXYN_subnVxVy x y
  | .shlVxVy x y, _ => decode_wordXYN_shlVxVy x y
  | .sneVxVy x y, _ => decode_wordXYN_sneVxVy x y 0
  | .ldIAddr nnn, _ => decode_wordNNN_ldIAddr nnn
  | .jpV0Addr nnn, _ => decode_wordNNN_jpV0Addr nnn
  | .rndVxByte x kk, _ => decode_wordXKK_rndVxByte x kk
  | .drw x y n, _ => decode_wordXYN_drw x y n
  | .skp x, _ => decode_wordXKK_skp x
  | .sknp x, _ => decode_wordXKK_sknp x
  | .ldVxDt x, _ => decode_wordXKK_ldVxDt x
  | .ldVxK x, _ => decode_wordXKK_ldVxK x
  | .ldDtVx x, _ => decode_wordXKK_ldDtVx x
  | .ldStVx x, _ => decode_wordXKK_ldStVx x
  | .addIVx x, _ => decode_wordXKK_addIVx x
  | .ldFVx x, _ => decode_wordXKK_ldFVx x
  | .ldBVx x, _ => decode_wordXKK_ldBVx x
  | .ldMemVx x, _ => decode_wordXKK_ldMemVx x
  | .ldVxMem x, _ => decode_wordXKK_ldVxMem x

/-! ### A word from the branch that decodes it -/

/-- A bit vector is the literal whose value it has. -/
theorem eq_ofNat_of_toNat {w n : Nat} {b : BitVec w} (h : b.toNat = n) : b = BitVec.ofNat w n := by
  rw [← h, BitVec.ofNat_toNat, BitVec.setWidth_eq]

theorem wordNNN_of_op {w : Word} {op : Nat} (h : (fieldOp w).toNat = op) :
    wordNNN (BitVec.ofNat 4 op) (fieldNNN w) = w := by
  rw [← eq_ofNat_of_toNat h, wordNNN_of_fields]

theorem wordXKK_of_op {w : Word} {op : Nat} (h : (fieldOp w).toNat = op) :
    wordXKK (BitVec.ofNat 4 op) (fieldX w) (fieldKK w) = w := by
  rw [← eq_ofNat_of_toNat h, wordXKK_of_fields]

theorem wordXYN_of_op {w : Word} {op : Nat} (h : (fieldOp w).toNat = op) :
    wordXYN (BitVec.ofNat 4 op) (fieldX w) (fieldY w) (fieldN w) = w := by
  rw [← eq_ofNat_of_toNat h, wordXYN_of_fields]

/-- A word of format `XYS`, its low nibble the selector. -/
theorem wordXYN_of_op_selector {w : Word} {op n : Nat} (h : (fieldOp w).toNat = op) (hn : (fieldN w).toNat = n) :
    wordXYN (BitVec.ofNat 4 op) (fieldX w) (fieldY w) (BitVec.ofNat 4 n) = w := by
  rw [← eq_ofNat_of_toNat hn, wordXYN_of_op h]

/-- A word of format `XS`, its low byte the selector. -/
theorem wordXKK_of_op_selector {w : Word} {op kk : Nat} (h : (fieldOp w).toNat = op) (hk : (fieldKK w).toNat = kk) :
    wordXKK (BitVec.ofNat 4 op) (fieldX w) (BitVec.ofNat 8 kk) = w := by
  rw [← eq_ofNat_of_toNat hk, wordXKK_of_op h]

/-- The word of branches 5 and 9 with the ignored nibble cleared (30 R83). -/
theorem wordXYN_zero_of_op {w : Word} {op : Nat} (h : (fieldOp w).toNat = op) :
    wordXYN (BitVec.ofNat 4 op) (fieldX w) (fieldY w) 0 = w &&& 0xFFF0 := by
  rw [← eq_ofNat_of_toNat h, wordXYN_zero_of_fields]

/-! ### What each branch decodes, back to the word -/

theorem decodeBranch0_instr {w : Word} {i : Instr} (hop : (fieldOp w).toNat = 0) (h : decodeBranch0 w = .instr i) :
    i.wellFormed = true ∧ encode i = w := by
  have word : wordNNN 0x0 (fieldNNN w) = w := wordNNN_of_op hop
  unfold decodeBranch0 at h
  split at h
  case isTrue hw => cases h; exact ⟨rfl, hw.symm⟩
  case isFalse notCls =>
    split at h
    case isTrue hw => cases h; exact ⟨rfl, hw.symm⟩
    case isFalse notRet =>
      cases h
      have hcls : fieldNNN w ≠ 0x0E0#12 := fun e => notCls (by rw [← word, e]; rfl)
      have hret : fieldNNN w ≠ 0x0EE#12 := fun e => notRet (by rw [← word, e]; rfl)
      exact ⟨Bool.and_eq_true_iff.2 ⟨bne_iff_ne.2 hcls, bne_iff_ne.2 hret⟩, word⟩

theorem decodeBranch8_instr {w : Word} {i : Instr} (hop : (fieldOp w).toNat = 8) (h : decodeBranch8 w = .instr i) :
    i.wellFormed = true ∧ encode i = w := by
  unfold decodeBranch8 at h
  split at h <;> cases h <;> exact ⟨rfl, wordXYN_of_op_selector hop ‹_›⟩

theorem decodeBranchE_instr {w : Word} {i : Instr} (hop : (fieldOp w).toNat = 14) (h : decodeBranchE w = .instr i) :
    i.wellFormed = true ∧ encode i = w := by
  unfold decodeBranchE at h
  split at h <;> cases h <;> exact ⟨rfl, wordXKK_of_op_selector hop ‹_›⟩

theorem decodeBranchF_instr {w : Word} {i : Instr} (hop : (fieldOp w).toNat = 15) (h : decodeBranchF w = .instr i) :
    i.wellFormed = true ∧ encode i = w := by
  unfold decodeBranchF at h
  split at h <;> cases h <;> exact ⟨rfl, wordXKK_of_op_selector hop ‹_›⟩

/-- Settles O2: each branch gives the instruction whose word, put together again from the fields (`wordNNN_of_op` and
its like), is `w`; branches 5 and 9 drop the low nibble (`wordXYN_zero_of_op`). -/
theorem decodedWordIsItsEncoding : Obligations.DecodedWordIsItsEncoding := by
  intro w i h
  unfold decode at h
  split at h
  next hop => exact (decodeBranch0_instr hop h).imp_right .inl
  next hop => cases h; exact ⟨rfl, .inl (wordNNN_of_op hop)⟩
  next hop => cases h; exact ⟨rfl, .inl (wordNNN_of_op hop)⟩
  next hop => cases h; exact ⟨rfl, .inl (wordXKK_of_op hop)⟩
  next hop => cases h; exact ⟨rfl, .inl (wordXKK_of_op hop)⟩
  next hop => cases h; exact ⟨rfl, .inr ⟨.inl (toNat_fieldOp w ▸ hop), wordXYN_zero_of_op hop⟩⟩
  next hop => cases h; exact ⟨rfl, .inl (wordXKK_of_op hop)⟩
  next hop => cases h; exact ⟨rfl, .inl (wordXKK_of_op hop)⟩
  next hop => exact (decodeBranch8_instr hop h).imp_right .inl
  next hop => cases h; exact ⟨rfl, .inr ⟨.inr (toNat_fieldOp w ▸ hop), wordXYN_zero_of_op hop⟩⟩
  next hop => cases h; exact ⟨rfl, .inl (wordNNN_of_op hop)⟩
  next hop => cases h; exact ⟨rfl, .inl (wordNNN_of_op hop)⟩
  next hop => cases h; exact ⟨rfl, .inl (wordXKK_of_op hop)⟩
  next hop => cases h; exact ⟨rfl, .inl (wordXYN_of_op hop)⟩
  next hop => exact (decodeBranchE_instr hop h).imp_right .inl
  next =>
    have hop : (fieldOp w).toNat = 15 := by have lt := (fieldOp w).isLt; grind
    exact (decodeBranchF_instr hop h).imp_right .inl

/-! ### The words each branch rejects (30 R84) -/

theorem decodeBranch0_ne_unknown (w u : Word) : decodeBranch0 w ≠ .unknown u := by
  unfold decodeBranch0
  split <;> [skip; split] <;> exact Operation.noConfusion

theorem decodeBranch8_unknown (w u : Word) :
    decodeBranch8 w = .unknown u ↔ u = w ∧ (fieldN w).toNat ∈ [0x8, 0x9, 0xA, 0xB, 0xC, 0xD, 0xF] := by
  have lt := (fieldN w).isLt
  unfold decodeBranch8
  split
  case h_10 => grind
  all_goals simp [*]

theorem decodeBranchE_unknown (w u : Word) :
    decodeBranchE w = .unknown u ↔ u = w ∧ (fieldKK w).toNat ∉ [0x9E, 0xA1] := by
  unfold decodeBranchE
  split
  case h_3 => simp_all [eq_comm (a := w)]
  all_goals simp [*]

theorem decodeBranchF_unknown (w u : Word) :
    decodeBranchF w = .unknown u ↔
      u = w ∧ (fieldKK w).toNat ∉ [0x07, 0x0A, 0x15, 0x18, 0x1E, 0x29, 0x33, 0x55, 0x65] := by
  unfold decodeBranchF
  split
  case h_10 => simp_all [eq_comm (a := w)]
  all_goals simp [*]

/-- Settles O3: only branches 8, E and F reject words, each the words outside its selectors (`decodeBranch8_unknown`,
`decodeBranchE_unknown`, `decodeBranchF_unknown`). -/
theorem unknownWordsExactly : Obligations.UnknownWordsExactly := by
  intro w u
  simp only [← toNat_fieldOp, ← toNat_fieldN, ← toNat_fieldKK]
  have lt := (fieldOp w).isLt
  unfold decode
  split
  case h_1 hop => simp [hop, decodeBranch0_ne_unknown]
  case h_9 hop => simp [hop, decodeBranch8_unknown]
  case h_15 hop => simp [hop, decodeBranchE_unknown]
  case h_16 =>
    have hop : (fieldOp w).toNat = 15 := by grind
    simp [hop, decodeBranchF_unknown]
  all_goals simp [*]

/-- Settles O4: the decoder run on each word. -/
theorem specWordsDecode : Obligations.SpecWordsDecode := by
  unfold Obligations.SpecWordsDecode
  decide

end Sys2Proof.Proofs
end

section
/-! The obligations of the step (spec 40) and of its errors (spec 60 section 1). -/

namespace Sys2Proof.Proofs
open Sys2Proof Sys2Proof.Machine

/-! ### The execute phase by outcome: faults, no refusals -/

theorem next_ne_fault (t : State) (f : Fault) : (.next t : Result) ≠ .fault f := nofun

theorem next_ne_refused (t : State) (r : Refusal) : (.next t : Result) ≠ .refused r := nofun

theorem fault_ne_refused (f : Fault) (r : Refusal) : (.fault f : Result) ≠ .refused r := nofun

theorem withRun_fault_iff {base k : Nat} {t : State} {f : Fault} :
    withRun base k (.next t) = .fault f ↔ 1 ≤ k ∧ 0xFFF < base + k - 1 ∧ f = outOfBoundsAt (max base 0x1000) := by
  unfold withRun raise
  split <;> simp_all [eq_comm]

theorem withRun_ne_refused (base k : Nat) (t : State) (r : Refusal) : withRun base k (.next t) ≠ .refused r := by
  unfold withRun raise
  split
  · exact fault_ne_refused _ _
  · exact next_ne_refused _ _

/-- Settles O12: `CALL` and `RET` fail their own guard, the four instructions with a run at `I` the range check
(`withRun_fault_iff`); every other meaning answers a next state. -/
theorem errorSources : Obligations.ErrorSources := by
  intro i s f
  cases i
  case call =>
    have lt := s.sp.isLt
    simp only [exec, execCall, raise, currentAddr]
    split
    · simp; omega
    · simp [eq_comm (b := f)]; omega
  case ret =>
    simp only [exec, execRet, raise, currentAddr]
    split
    · simp; omega
    · simp [eq_comm (b := f)]; omega
  case drw => exact withRun_fault_iff
  case ldBVx => exact withRun_fault_iff.trans ⟨And.right, fun h => ⟨by decide, h⟩⟩
  case ldMemVx => exact withRun_fault_iff.trans ⟨And.right, fun h => ⟨Nat.succ_pos _, h⟩⟩
  case ldVxMem => exact withRun_fault_iff.trans ⟨And.right, fun h => ⟨Nat.succ_pos _, h⟩⟩
  case ldVxK x =>
    obtain ⟨t, ht⟩ := execLdVxK_next x s
    simp [exec, ht]
  all_goals exact ⟨fun h => next_ne_fault _ _ h, False.elim⟩

theorem exec_ne_refused (i : Instr) (s : State) (r : Refusal) : exec i s ≠ .refused r := by
  cases i
  case call =>
    simp only [exec, execCall, raise]
    split
    · exact next_ne_refused _ _
    · exact fault_ne_refused _ _
  case ret =>
    simp only [exec, execRet, raise]
    split
    · exact next_ne_refused _ _
    · exact fault_ne_refused _ _
  case drw => exact withRun_ne_refused _ _ _ _
  case ldBVx => exact withRun_ne_refused _ _ _ _
  case ldMemVx => exact withRun_ne_refused _ _ _ _
  case ldVxMem => exact withRun_ne_refused _ _ _ _
  case ldVxK x =>
    obtain ⟨t, ht⟩ := execLdVxK_next x s
    simp [exec, ht]
  all_goals exact next_ne_refused _ _

theorem execOp_ne_refused : ∀ (op : Operation) (s : State) (r : Refusal), execOp op s ≠ .refused r
  | .instr i, s, r => exec_ne_refused i s r
  | .unknown _, s, r => next_ne_refused s r

/-- Settles O13: a failed fetch is a fault, `Unknown` a no-op, and no meaning refuses (`execOp_ne_refused`). -/
theorem noStepRefuses : Obligations.NoStepRefuses := by
  intro s r
  unfold step raise runWord
  split
  · exact fault_ne_refused _ _
  · split
    · exact next_ne_refused _ _
    · exact fault_ne_refused _ _
    · next h => exact absurd h (execOp_ne_refused _ _ _)

/-- An instruction's error depends on `sp`, `pc` and `I` alone. -/
theorem exec_fault_congr {i : Instr} {s t : State} {f : Fault} (hsp : t.sp = s.sp) (hpc : t.pc = s.pc) (hi : t.i = s.i)
    (h : exec i s = .fault f) : exec i t = .fault f := by
  rw [errorSources] at h ⊢
  rwa [hsp, hpc, hi]

/-- Settles O11: the fetch does not read the keypad or the random index (`fetch_congr`), and no instruction's error
depends on them (`exec_fault_congr`). -/
theorem errorRepeats : Obligations.ErrorRepeats := by
  intro s f h k n
  have fetched : fetch { s with keys := k, rndIndex := n } = fetch s := fetch_congr rfl rfl rfl
  rcases step_fault h with hf | ⟨w, hf, he⟩
  · rw [step, fetched, hf]; rfl
  · refine step_of_fault (fetched.trans hf) ?_
    cases hd : decode w with
    | instr i => rw [hd] at he; exact exec_fault_congr (s := enter (.instr i) s) rfl rfl rfl he
    | unknown u => rw [hd] at he; cases he

/-! ### The step as a whole -/

/-- Settles O6: the fetch fails above `0xFFE` (`fetch_outside`), and its 16-bit `info` loses nothing of the address. -/
theorem fetchAboveTopFaults : Obligations.FetchAboveTopFaults := by
  intro s h
  have lt : max s.pc.toNat 0x1000 < 2 ^ 16 := Nat.max_lt.2 ⟨s.pc.isLt, by decide⟩
  refine ⟨BitVec.ofNat 16 (max s.pc.toNat 0x1000), ?_, toNat_ofNat_of_lt lt⟩
  rw [step, fetch_outside h]; rfl

/-- The state the handler of `i` sees, its `waiting` written out (40 R102, R104). -/
theorem enter_instr (i : Instr) (s : State) :
    enter (.instr i) s = { s with
      pc := s.pc + 2
      waiting := match i with
        | .ldVxK _ => s.waiting
        | _ => false } := by
  cases i <;> simp [enter, isKeyWait, advancePc]

/-- Settles O7: `step` unfolded at a word that decodes to `i`; the handler's state is `enter_instr`. -/
theorem stepRunsDecodedInstruction : Obligations.StepRunsDecodedInstruction := by
  intro s i hpc hd
  rw [step, fetch_inside hpc]
  simp only [runWord, hd, execOp]
  rw [enter_instr]
  rfl

/-- A step whose word has no effect of its own, `SYS` or `Unknown`: `pc` advances, `waiting` is cleared, the timers
tick (40 R102, R104, R106). -/
theorem step_of_noOp {s : State} {w : Word} (hf : fetch s = .ok w) (hk : isKeyWait (decode w) = false)
    (he : execOp (decode w) (enter (decode w) s) = .next (enter (decode w) s)) :
    step s = .next { s with pc := s.pc + 2, waiting := false, dt := countDown s.dt, st := countDown s.st } := by
  have idle : (enter (decode w) s).waiting = false := by rw [enter_waiting, hk, Bool.and_false]
  rw [step_of_next hf he, finish, if_neg (Bool.eq_false_iff.1 idle), ← idle]
  rfl

theorem transact_of_next {s t : State} (h : step s = .next t) : transact s = .ok (t, completedStatus s t) := by
  rw [transact, h]

theorem transact_of_fault {s : State} {f : Fault} (h : step s = .fault f) : transact s = .ok (s, faultStatus f) := by
  rw [transact, h]

theorem completedStatus_waiting {s t : State} (h : t.waiting = true) : completedStatus s t = .awaitingKey := if_pos h

theorem completedStatus_unknown {s t : State} {w u : Word} (h : t.waiting = false) (hf : fetch s = .ok w)
    (hd : decode w = .unknown u) : completedStatus s t = .unknownOpcode u := by
  simp [completedStatus, h, hf, hd]

theorem completedStatus_instr {s t : State} {w : Word} {i : Instr} (h : t.waiting = false) (hf : fetch s = .ok w)
    (hd : decode w = .instr i) : completedStatus s t = .ok := by
  simp [completedStatus, h, hf, hd]

/-- Settles O8: the step of a no-op (`step_of_noOp`), reported with its word (`completedStatus_unknown`). -/
theorem unknownIsReportedNoOp : Obligations.UnknownIsReportedNoOp := by
  intro s w hf hd
  have stepped := step_of_noOp hf (by rw [hd]; rfl) (by rw [hd]; rfl)
  rw [transact_of_next stepped, completedStatus_unknown rfl hf hd]

/-- Settles O10: `transact` by the step's outcome (`transact_of_fault`, `transact_of_next`) and the completed step's
status by case; the codes and infos are `statusCode` and `statusInfo` read off. -/
theorem stepStatus : Obligations.StepStatus := by
  refine ⟨fun s a => ⟨transact_of_fault, transact_of_fault, transact_of_fault⟩, fun s t w hf h => ?completed,
    ⟨rfl, rfl⟩, ⟨rfl, rfl⟩, fun a => ⟨⟨rfl, rfl⟩, ⟨rfl, rfl⟩, ⟨rfl, rfl⟩, ⟨rfl, rfl⟩⟩⟩
  case completed =>
    exact ⟨_, transact_of_next h, completedStatus_waiting,
      fun hw => ⟨fun _ => completedStatus_unknown hw hf, fun _ => completedStatus_instr hw hf⟩⟩

/-- Settles O58: `SYS` is branch 0 but for two words (`decode_wordNNN_sys`) and its step is that of a no-op
(`step_of_noOp`), returning `Ok` (`completedStatus_instr`). -/
theorem sysIsNoOp : Obligations.SysIsNoOp := by
  refine fun nnn s => ⟨decode_wordNNN_sys, rfl, fun w hf hd => ?step⟩
  case step =>
    have stepped := step_of_noOp hf (by rw [hd]; rfl) (by rw [hd]; rfl)
    rw [transact_of_next stepped, completedStatus_instr rfl hf hd]

/-! ### What a handler leaves alone, said once for every operation -/

/-- What an operation can change of a state, field by field; `V`, `pc` and the random index are not tracked. -/
structure Frame (op : Operation) (s u : State) : Prop where
  cfg : u.cfg = s.cfg
  keys : u.keys = s.keys
  kprev : (∀ x, op ≠ .instr (.ldVxK x)) → u.kprev = s.kprev
  waiting : (∀ x, op ≠ .instr (.ldVxK x)) → u.waiting = s.waiting
  fb : (∀ x y n, op ≠ .instr (.drw x y n)) → op ≠ .instr .cls → u.fb = s.fb ∧ u.drawFlag = s.drawFlag
  drawFlag : s.drawFlag = true → u.drawFlag = true
  mem : (∀ x, op ≠ .instr (.ldBVx x)) → (∀ x, op ≠ .instr (.ldMemVx x)) → u.mem = s.mem
  stack : (∀ a, op ≠ .instr (.call a)) → u.stack = s.stack
  sp : (∀ a, op ≠ .instr (.call a)) → op ≠ .instr .ret → u.sp = s.sp
  i : (∀ a, op ≠ .instr (.ldIAddr a)) → (∀ x, op ≠ .instr (.addIVx x)) → (∀ x, op ≠ .instr (.ldFVx x)) → u.i = s.i
  dt : (∀ x, op ≠ .instr (.ldDtVx x)) → u.dt = s.dt
  st : (∀ x, op ≠ .instr (.ldStVx x)) → u.st = s.st

/-- An operation that writes none of the tracked fields. -/
theorem Frame.of_untracked {op : Operation} {s u : State}
    (h : u = { s with v := u.v, pc := u.pc, rndIndex := u.rndIndex }) : Frame op s u := by
  rw [h]
  exact ⟨rfl, rfl, fun _ => rfl, fun _ => rfl, fun _ _ => ⟨rfl, rfl⟩, id, fun _ _ => rfl, fun _ => rfl, fun _ _ => rfl,
    fun _ _ _ => rfl, fun _ => rfl, fun _ => rfl⟩

theorem frame_cls (s : State) : Frame (.instr .cls) s (clearScreen s) :=
  { Frame.of_untracked (u := s) rfl with
    fb := fun _ hcls => absurd rfl hcls
    drawFlag := fun _ => rfl }

theorem frame_drw (s : State) (x y : RegIdx) (n : Nibble) (x0 y0 : Nat) (bs : List Byte) :
    Frame (.instr (.drw x y n)) s (drawSprite s x0 y0 bs) :=
  { Frame.of_untracked (u := s) rfl with
    fb := fun hdrw => absurd rfl (hdrw x y n)
    drawFlag := fun _ => rfl }

theorem frame_ret (s : State) (h : 0 < s.sp.val) : Frame (.instr .ret) s (popReturn s h) :=
  { Frame.of_untracked (u := s) rfl with
    sp := fun _ hret => absurd rfl hret }

theorem frame_call (s : State) (a : Addr) (h : s.sp.val < 16) (w : Word) :
    Frame (.instr (.call a)) s (jumpTo (pushReturn s h) w) :=
  { Frame.of_untracked (u := s) rfl with
    stack := fun hcall => absurd rfl (hcall a)
    sp := fun hcall => absurd rfl (hcall a) }

theorem frame_setIndex {op : Operation} (s : State) (w : Word)
    (writer : ¬ ((∀ a, op ≠ .instr (.ldIAddr a)) ∧ (∀ x, op ≠ .instr (.addIVx x)) ∧ ∀ x, op ≠ .instr (.ldFVx x))) :
    Frame op s (setIndex s w) :=
  { Frame.of_untracked (u := s) rfl with
    i := fun ha hx hF => absurd ⟨ha, hx, hF⟩ writer }

theorem frame_storeBytes {op : Operation} (s : State) (base : Nat) (bs : List Byte)
    (writer : ¬ ((∀ x, op ≠ .instr (.ldBVx x)) ∧ ∀ x, op ≠ .instr (.ldMemVx x))) :
    Frame op s (storeBytes s base bs) := by
  rw [storeBytes_eq]
  exact { Frame.of_untracked (u := s) rfl with
    mem := fun hB hMem => absurd ⟨hB, hMem⟩ writer }

theorem frame_ldVxK {s u : State} (x : RegIdx) (h : u = awaitKey s ∨ ∃ j, u = takeKey s x j) :
    Frame (.instr (.ldVxK x)) s u := by
  rcases h with rfl | ⟨j, rfl⟩
  all_goals exact { Frame.of_untracked (u := s) rfl with
    kprev := fun hK => absurd rfl (hK x)
    waiting := fun hK => absurd rfl (hK x) }

/-- What a meaning leaves alone when it answers a next state: by the operation that gives the state (`exec_next`). -/
theorem exec_frame {i : Instr} {s u : State} (h : exec i s = .next u) : Frame (.instr i) s u := by
  have next := exec_next h
  cases i
  case cls => cases next; exact frame_cls s
  case ret => obtain ⟨_, rfl⟩ := next; exact frame_ret s _
  case call a => obtain ⟨_, rfl⟩ := next; exact frame_call s a _ _
  case drw x y n => cases next; exact frame_drw s x y n _ _ _
  case ldIAddr => obtain ⟨_, rfl⟩ := next; exact frame_setIndex s _ fun hw => hw.1 _ rfl
  case addIVx => obtain ⟨_, rfl⟩ := next; exact frame_setIndex s _ fun hw => hw.2.1 _ rfl
  case ldFVx => obtain ⟨_, rfl⟩ := next; exact frame_setIndex s _ fun hw => hw.2.2 _ rfl
  case ldBVx => cases next; exact frame_storeBytes s _ _ fun hw => hw.1 _ rfl
  case ldMemVx => cases next; exact frame_storeBytes s _ _ fun hw => hw.2 _ rfl
  case ldVxK x => exact frame_ldVxK x next
  case ldDtVx x => cases next; exact { Frame.of_untracked (u := s) rfl with dt := fun hdt => absurd rfl (hdt x) }
  case ldStVx x => cases next; exact { Frame.of_untracked (u := s) rfl with st := fun hst => absurd rfl (hst x) }
  case seVxByte | sneVxByte | seVxVy | sneVxVy | skp | sknp =>
    obtain ⟨c, rfl⟩ := next
    exact Frame.of_untracked (by cases c <;> rfl)
  case addVxVy | subVxVy | subnVxVy | shrVxVy | shlVxVy => obtain ⟨_, _, rfl⟩ := next; exact Frame.of_untracked rfl
  case sys | jp | ldVxMem => cases next; exact Frame.of_untracked rfl
  all_goals obtain ⟨_, rfl⟩ := next; exact Frame.of_untracked rfl

theorem execOp_frame {op : Operation} {s u : State} (h : execOp op s = .next u) : Frame op s u := by
  cases op with
  | instr i => exact exec_frame h
  | unknown w => rw [execOp_unknown h]; exact Frame.of_untracked rfl

/-- A whole step's handler: from the state it sees to the state the step ends in, before the tick. -/
theorem step_frame {s t : State} {w : Word} (hf : fetch s = .ok w) (h : step s = .next t) :
    ∃ u, Frame (decode w) (enter (decode w) s) u ∧ t = finish u := by
  obtain ⟨u, he, ht⟩ := step_next_of_fetch hf h
  exact ⟨u, execOp_frame he, ht⟩

/-! ### What only some instructions write -/

/-- Settles O16: the handler's frame (`step_frame`); neither the entry nor the tick touches the picture or its flag. -/
theorem framebufferWriters : Obligations.FramebufferWriters := by
  intro s t w hf h
  obtain ⟨u, frame, rfl⟩ := step_frame hf h
  refine ⟨fun hdrw hcls => ?_, fun hd => ?_⟩
  · simpa using frame.fb hdrw hcls
  · simpa using frame.drawFlag hd

/-- Settles O17: the handler's frame (`step_frame`); equal parameters and memory read alike (`byteAt_congr`). -/
theorem memoryWriters : Obligations.MemoryWriters := by
  intro s t w hf h hB hMem
  obtain ⟨u, frame, rfl⟩ := step_frame hf h
  have mem : (finish u).mem = s.mem := by simpa using frame.mem hB hMem
  have cfg : (finish u).cfg = s.cfg := by simpa using frame.cfg
  exact ⟨mem, byteAt_congr cfg mem⟩

/-- Settles O18: the handler's frame (`step_frame`). -/
theorem stackWriters : Obligations.StackWriters := by
  intro s t w hf h hcall
  obtain ⟨u, frame, rfl⟩ := step_frame hf h
  refine ⟨?_, fun hret => ?_⟩
  · simpa using frame.stack hcall
  · simpa using frame.sp hcall hret

/-- Settles O19: the handler's frame (`step_frame`). -/
theorem indexWriters : Obligations.IndexWriters := by
  intro s t w hf h ha hx hF
  obtain ⟨u, frame, rfl⟩ := step_frame hf h
  simpa using frame.i ha hx hF

/-- Settles O20: the handler's frame (`step_frame`). -/
theorem stepLeavesKeypadAndParameters : Obligations.StepLeavesKeypadAndParameters := by
  intro s t w hf h
  obtain ⟨u, frame, rfl⟩ := step_frame hf h
  refine ⟨?_, ?_, fun hK => ?_⟩
  · simpa using frame.cfg
  · simpa using frame.keys
  · simpa using frame.kprev hK

/-- A flag is written as 0 or 1 (10 R25). -/
theorem flagByte_eq (f : Bool) : flagByte f = 0 ∨ flagByte f = 1 := by
  cases f <;> simp [flagByte]

theorem readV_setVF_flagReg (s : State) (f : Bool) : readV (setVF s f) flagReg = flagByte f := by
  rw [setVF, readV_setV, if_pos rfl]

theorem setVF_flag (s : State) (f : Bool) : (setVF s f).v[flagReg] = 0 ∨ (setVF s f).v[flagReg] = 1 := by
  have := flagByte_eq f
  rwa [← readV_setVF_flagReg s f] at this

theorem setV_flag (s : State) {x : RegIdx} (b : Byte) (hx : x ≠ flagReg) : (setV s x b).v[flagReg] = s.v[flagReg] :=
  (readV_setV s x flagReg b).trans (if_neg hx.symm)

theorem loadRegs_flag (s : State) (base : Nat) {x : RegIdx} (hx : x ≠ flagReg) :
    (loadRegs s base x).v[flagReg] = s.v[flagReg] := by
  have above : ¬ (flagReg.val ≤ x.val) := fun h => hx (Fin.ext (Nat.le_antisymm (Nat.le_of_lt_succ x.isLt) h))
  exact (readV_loadRegs s base x flagReg).trans (if_neg above)

/-- Settles O21: by the operation that gives the next state (`exec_next`): the flag writers end in `setVF`
(`setVF_flag`), those with a destination in `setV` or `loadRegs` (`setV_flag`, `loadRegs_flag`), and no other operation
writes `V`. -/
theorem flagRegisterWriters : Obligations.FlagRegisterWriters := by
  intro i s t h
  have next := exec_next h
  cases i
  case addVxVy | subVxVy | subnVxVy | shrVxVy | shlVxVy => obtain ⟨_, _, rfl⟩ := next; exact setVF_flag _ _
  case drw => cases next; exact setVF_flag _ _
  case ldVxByte | addVxByte | ldVxVy | orVxVy | andVxVy | xorVxVy | ldVxDt =>
    obtain ⟨_, rfl⟩ := next
    exact setV_flag s _
  case rndVxByte => obtain ⟨_, rfl⟩ := next; exact setV_flag (useByte s) _
  case ldVxMem => cases next; exact loadRegs_flag s _
  case ldVxK x =>
    rcases next with rfl | ⟨j, rfl⟩
    · exact fun _ => rfl
    · exact setV_flag _ _
  case seVxByte | sneVxByte | seVxVy | sneVxVy | skp | sknp => obtain ⟨c, rfl⟩ := next; simp
  case ldBVx | ldMemVx => cases next; simp
  case sys | cls | jp | ldDtVx | ldStVx => cases next; rfl
  all_goals obtain ⟨_, rfl⟩ := next; rfl

/-! ### A waiting step -/

theorem isKeyWait_iff (op : Operation) : isKeyWait op = true ↔ ∃ x, op = .instr (.ldVxK x) := by
  constructor
  · intro h
    unfold isKeyWait at h
    split at h
    · exact ⟨_, rfl⟩
    · cases h
  · rintro ⟨x, rfl⟩
    rfl

/-- The await outcome, seen over the whole step: `pc` is back on the word and no timer has ticked (40 R110). -/
theorem finish_awaitKey_enter (x : RegIdx) (s : State) :
    finish (awaitKey (enter (.instr (.ldVxK x)) s)) = { s with waiting := true, kprev := s.keys } := by
  have back : s.pc + 2 - 2 = s.pc := BitVec.add_sub_cancel s.pc 2
  rw [enter_ldVxK, finish, if_pos (awaitKey_waiting _), awaitKey, back]

/-- Settles O14: only `LD Vx, K` can leave `waiting` at 1, since the entry clears it for any other word
(`isKeyWait_iff`) and no other handler writes it (`step_frame`); it does so by the await outcome alone
(`finish_awaitKey_enter`). -/
theorem waitingStepChangesOnlyTheWait : Obligations.WaitingStepChangesOnlyTheWait := by
  intro s t h hw
  obtain ⟨w, u, hf, he, rfl⟩ := step_next h
  rw [finish_waiting] at hw
  have keyWait : ∃ x, decode w = .instr (.ldVxK x) := by
    by_contra other
    have cleared : isKeyWait (decode w) = false := Bool.eq_false_iff.2 fun hk => other ((isKeyWait_iff _).1 hk)
    have kept := (execOp_frame he).waiting fun x hx => other ⟨x, hx⟩
    rw [hw, enter_waiting, cleared, Bool.and_false] at kept
    cases kept
  obtain ⟨x, hd⟩ := keyWait
  rw [hd] at he
  rcases exec_next (i := .ldVxK x) he with rfl | ⟨j, rfl⟩
  · exact ⟨finish_awaitKey_enter x s, w, x, hf, hd⟩
  · cases hw

/-- Settles O9: a waiting step leaves the timers (`waitingStepChangesOnlyTheWait`); any other ticks (`toNat_countDown`)
what its handler left, which is the timer itself (`step_frame`) or the register written to it (`exec_next`). -/
theorem timersCountCompletedSteps : Obligations.TimersCountCompletedSteps := by
  intro s t w hf h
  refine ⟨fun hw => ?waiting, fun hw => ?completed⟩
  case waiting =>
    rw [(waitingStepChangesOnlyTheWait s t h hw).1]
    exact ⟨rfl, rfl⟩
  case completed =>
    obtain ⟨u, he, rfl⟩ := step_next_of_fetch hf h
    have frame := execOp_frame he
    rw [finish_waiting] at hw
    rw [finish_dt, finish_st, hw]
    simp only [Bool.false_eq_true, if_false, toNat_countDown]
    refine ⟨fun hdt => ?_, fun hst => ?_, fun x hx => ?_, fun x hx => ?_⟩
    · rw [frame.dt hdt, enter_dt]
    · rw [frame.st hst, enter_st]
    · rw [hx] at he; cases exec_next (i := .ldDtVx x) he; rfl
    · rw [hx] at he; cases exec_next (i := .ldStVx x) he; rfl

/-! ### The random index is read by `RND` alone -/

/-- The state with another random index. -/
def setRnd (k : Nat) (s : State) : State := { s with rndIndex := k }

/-- Every next state of a result, changed by `g`; an error as it is. -/
def mapNext (g : State → State) : Result → Result
  | .next t => .next (g t)
  | .fault f => .fault f
  | .refused r => .refused r

theorem withRun_setRnd (base n k : Nat) (t : State) :
    withRun base n (.next (setRnd k t)) = mapNext (setRnd k) (withRun base n (.next t)) := by
  unfold withRun
  split <;> rfl

theorem storeBytes_setRnd (k : Nat) (s : State) (base : Nat) (bs : List Byte) :
    storeBytes (setRnd k s) base bs = setRnd k (storeBytes s base bs) := by
  induction bs generalizing s base with
  | nil => rfl
  | cons b bs ih => exact ih (setByte s base b) (base + 1)

theorem skipIf_setRnd (k : Nat) (s : State) (c : Bool) : skipIf (setRnd k s) c = setRnd k (skipIf s c) := by
  cases c <;> rfl

theorem finish_setRnd (k : Nat) (s : State) : finish (setRnd k s) = setRnd k (finish s) := by
  unfold finish
  exact (apply_ite (setRnd k) (s.waiting = true) s (tick s)).symm

theorem execLdVxK_setRnd (x : RegIdx) (k : Nat) (s : State) :
    execLdVxK x (setRnd k s) = mapNext (setRnd k) (execLdVxK x s) := by
  have read : newlyPressed (setRnd k s) = newlyPressed s := rfl
  have waits : (setRnd k s).waiting = s.waiting := rfl
  rw [execLdVxK, execLdVxK, read, waits]
  cases s.waiting
  · rfl
  · cases leastKey (newlyPressed s) <;> rfl

theorem exec_setRnd {i : Instr} (hi : ∀ x kk, i ≠ .rndVxByte x kk) (k : Nat) (s : State) :
    exec i (setRnd k s) = mapNext (setRnd k) (exec i s) := by
  cases i
  case rndVxByte x kk => exact absurd rfl (hi x kk)
  case call =>
    simp only [exec, execCall, apply_dite (mapNext (setRnd k))]
    rfl
  case ret =>
    simp only [exec, execRet, apply_dite (mapNext (setRnd k))]
    rfl
  case seVxByte | sneVxByte | seVxVy | sneVxVy | skp | sknp => exact congrArg Host.Outcome.next (skipIf_setRnd k s _)
  case drw x y n =>
    exact withRun_setRnd s.i.toNat n.toNat k
      (drawSprite s (readV s x).toNat (readV s y).toNat (bytesAt s s.i.toNat n.toNat))
  case ldBVx =>
    simp only [exec, execLdBVx, storeBytes_setRnd]
    exact withRun_setRnd _ _ k _
  case ldMemVx =>
    simp only [exec, execLdMemVx, storeBytes_setRnd]
    exact withRun_setRnd _ _ k _
  case ldVxMem x => exact withRun_setRnd _ _ k (loadRegs s s.i.toNat x)
  case ldVxK x => exact execLdVxK_setRnd x k s
  all_goals rfl

theorem execOp_setRnd {op : Operation} (hop : ∀ x kk, op ≠ .instr (.rndVxByte x kk)) (k : Nat) (s : State) :
    execOp op (setRnd k s) = mapNext (setRnd k) (execOp op s) := by
  cases op with
  | instr i => exact exec_setRnd (fun x kk h => hop x kk (congrArg _ h)) k s
  | unknown w => rfl

/-- Settles O15: the fetch, the entry and the tick do not read the index, and no handler but that of `RND` does
(`execOp_setRnd`). -/
theorem onlyRndReadsTheRandomByte : Obligations.OnlyRndReadsTheRandomByte := by
  intro s k hrnd
  change step (setRnd k s) = mapNext (setRnd k) (step s)
  have fetched : fetch (setRnd k s) = fetch s := fetch_congr rfl rfl rfl
  unfold step
  rw [fetched]
  cases hf : fetch s with
  | error f => rfl
  | ok w =>
    have handled : execOp (decode w) (enter (decode w) (setRnd k s)) =
        mapNext (setRnd k) (execOp (decode w) (enter (decode w) s)) := execOp_setRnd (hrnd w · · hf) k (enter (decode w) s)
    simp only [runWord]
    rw [handled]
    cases execOp (decode w) (enter (decode w) s) with
    | next u => exact congrArg Host.Outcome.next (finish_setRnd k u)
    | fault f => rfl
    | refused r => rfl

end Sys2Proof.Proofs
end

section
/-! The obligations of the invariants (spec 60 section 1), of reset (spec 70) and of the host interface (spec 60
section 6). -/

namespace Sys2Proof.Proofs
open Sys2Proof Sys2Proof.Machine

/-! ### What each operation keeps of the invariants -/

/-- `ConfigOk` and the four other invariants depend on six fields alone; an operation that keeps five of them has only
its `pc` to answer for. -/
theorem sound_of_pc {s u : State} (h : Sound s) (hcfg : u.cfg = s.cfg) (hmem : u.mem = s.mem) (hfb : u.fb = s.fb)
    (hstack : u.stack = s.stack) (hpc : PcOk u) : Sound u := by
  obtain ⟨cfgOk, memOk, frameOk, -, stackOk⟩ := h
  refine ⟨?_, ?_, ?_, hpc, ?_⟩
  · rw [ConfigOk, hcfg]; exact cfgOk
  · rw [MemoryOk, hcfg, hmem]; exact memOk
  · rw [FrameOk, hcfg, hfb]; exact frameOk
  · rw [StackOk, hstack]; exact stackOk

theorem sound_storeBytes {s : State} (h : Sound s) (base : Nat) (bs : List Byte) : Sound (storeBytes s base bs) := by
  obtain ⟨cfgOk, memOk, frameOk, pcOk, stackOk⟩ := h
  have memOk' := memoryOk_storeBytes base bs memOk
  rw [storeBytes_eq] at memOk' ⊢
  exact ⟨cfgOk, memOk', frameOk, pcOk, stackOk⟩

theorem sound_clearScreen {s : State} (h : Sound s) : Sound (clearScreen s) := by
  obtain ⟨cfgOk, memOk, -, pcOk, stackOk⟩ := h
  exact ⟨cfgOk, memOk, List.length_replicate, pcOk, stackOk⟩

theorem sound_drawSprite {s : State} (h : Sound s) (x0 y0 : Nat) (bs : List Byte) : Sound (drawSprite s x0 y0 bs) := by
  obtain ⟨cfgOk, memOk, frameOk, pcOk, stackOk⟩ := h
  exact ⟨cfgOk, memOk, (length_plotCells _ _).trans frameOk, pcOk, stackOk⟩

/-- A jump to at most `0x10FE`. -/
theorem sound_jumpTo {s : State} (h : Sound s) {w : Word} (hw : w.toNat ≤ 0x10FE) : Sound (jumpTo s w) :=
  sound_of_pc h rfl rfl rfl rfl hw

/-- `pushReturn` puts `pc` itself on the stack, so every entry stays within `pc`'s bound. -/
theorem sound_pushReturn {s : State} (h : Sound s) (hsp : s.sp.val < 16) : Sound (pushReturn s hsp) := by
  obtain ⟨cfgOk, memOk, frameOk, pcOk, stackOk⟩ := h
  refine ⟨cfgOk, memOk, frameOk, pcOk, fun j => ?_⟩
  rw [pushReturn_stack, Fin.getElem_fin, Vector.getElem_set]
  split
  · exact pcOk
  · exact stackOk j

/-- `popReturn` takes `pc` from the stack. -/
theorem sound_popReturn {s : State} (h : Sound s) (hsp : 0 < s.sp.val) : Sound (popReturn s hsp) := by
  have ⟨_, _, _, _, stackOk⟩ := h
  exact sound_of_pc h rfl rfl rfl rfl (stackOk ⟨s.sp.val - 1, by omega⟩)

theorem toNat_add_two {w : Word} (h : w.toNat ≤ 0x1000) : (w + 2).toNat = w.toNat + 2 := by
  rw [BitVec.toNat_add]
  exact Nat.mod_eq_of_lt (by simp; omega)

/-- A skip from a post-fetch `pc` ends at most at `0x1002`. -/
theorem sound_skipIf {s : State} (h : Sound s) (hpc : s.pc.toNat ≤ 0x1000) (c : Bool) : Sound (skipIf s c) := by
  refine sound_of_pc h (skipIf_cfg s c) (skipIf_mem s c) (skipIf_fb s c) (skipIf_stack s c) ?_
  cases c with
  | false => exact Nat.le_trans hpc (by decide)
  | true =>
    have moved : (s.pc + 2).toNat = s.pc.toNat + 2 := toNat_add_two hpc
    change (s.pc + 2).toNat ≤ 0x10FE
    omega

/-- The await outcome puts `pc` back on the word it came from. -/
theorem sound_awaitKey {s : State} (h : Sound s) (hlow : 2 ≤ s.pc.toNat) : Sound (awaitKey s) := by
  have back : (s.pc - 2).toNat = s.pc.toNat - 2 := BitVec.toNat_sub_of_le (BitVec.le_def.2 hlow)
  have ⟨_, _, _, pcOk, _⟩ := h
  refine sound_of_pc h rfl rfl rfl rfl ?_
  change (s.pc - 2).toNat ≤ 0x10FE
  omega

/-- `JP V0` reaches at most `0xFFF + 0xFF`, which is where the bound `0x10FE` comes from (10 R27). -/
theorem toNat_jpV0_target (nnn : Addr) (b : Byte) : (addrWord nnn + byteWord b).toNat ≤ 0x10FE := by
  have lt := nnn.isLt
  have lt' := b.isLt
  rw [toNat_add_byteWord, toNat_addrWord]
  omega

theorem toNat_addrWord_le (nnn : Addr) : (addrWord nnn).toNat ≤ 0x10FE := by
  have lt := nnn.isLt
  rw [toNat_addrWord]
  omega

/-- Every handler keeps the invariants of the state it sees, whose `pc` is post-fetch: from 2 to `0x1000`. -/
theorem exec_keeps_sound {i : Instr} {s u : State} (h : Sound s) (hlow : 2 ≤ s.pc.toNat) (hhigh : s.pc.toNat ≤ 0x1000)
    (he : exec i s = .next u) : Sound u := by
  have next := exec_next he
  cases i
  case cls => cases next; exact sound_clearScreen h
  case ret => obtain ⟨_, rfl⟩ := next; exact sound_popReturn h _
  case jp nnn => cases next; exact sound_jumpTo h (toNat_addrWord_le nnn)
  case call nnn => obtain ⟨_, rfl⟩ := next; exact sound_jumpTo (sound_pushReturn h _) (toNat_addrWord_le nnn)
  case jpV0Addr nnn => cases he; exact sound_jumpTo h (toNat_jpV0_target nnn _)
  case seVxByte | sneVxByte | seVxVy | sneVxVy | skp | sknp => obtain ⟨c, rfl⟩ := next; exact sound_skipIf h hhigh c
  case drw => cases next; exact sound_drawSprite h _ _ _
  case ldBVx | ldMemVx => cases next; exact sound_storeBytes h _ _
  case ldVxK =>
    rcases next with rfl | ⟨j, rfl⟩
    · exact sound_awaitKey h hlow
    · exact h
  case addVxVy | subVxVy | subnVxVy | shrVxVy | shlVxVy => obtain ⟨_, _, rfl⟩ := next; exact h
  case sys | ldDtVx | ldStVx | ldVxMem => cases next; exact h
  all_goals obtain ⟨_, rfl⟩ := next; exact h

theorem sound_finish {s : State} (h : Sound s) : Sound (finish s) := by
  have ⟨_, _, _, pcOk, _⟩ := h
  exact sound_of_pc h (finish_cfg s) (finish_mem s) (finish_fb s) (finish_stack s) (by rwa [PcOk, finish_pc])

/-- Settles O22: a fetch that succeeds leaves `pc` from 2 to `0x1000` (`fetch_ok`), from where each handler keeps the
invariants (`exec_keeps_sound`), as the tick does (`sound_finish`). -/
theorem stepKeepsSound : Obligations.StepKeepsSound := by
  intro s t h hs
  obtain ⟨w, u, hf, he, rfl⟩ := step_next hs
  have hpc := (fetch_ok hf).1
  have moved : (enter (decode w) s).pc.toNat = s.pc.toNat + 2 := toNat_add_two (by omega)
  have entered : Sound (enter (decode w) s) := sound_of_pc h rfl rfl rfl rfl (by rw [PcOk, moved]; omega)
  refine sound_finish ?_
  cases hd : decode w with
  | unknown v => rw [hd] at he entered; rw [execOp_unknown he]; exact entered
  | instr i =>
    rw [hd] at he entered moved
    exact exec_keeps_sound entered (by omega) (by omega) he

/-! ### Reset and the host's other operations -/

theorem sound_resetWith {c : Config} (h : c.wf = true) (k : Nat) : Sound (State.resetWith c k) := by
  refine ⟨h, memoryOk_resetWith c k, List.length_replicate, (by decide : (0x200#16).toNat ≤ 0x10FE), fun j => ?_⟩
  simp [State.resetWith]

/-- Settles O23: the default parameters are within their bounds (`sound_resetWith`). -/
theorem resetIsSound : Obligations.ResetIsSound := sound_resetWith (by decide) 0

/-- A step as the host sees it: an error gives the state back (D4). -/
theorem transact_keeps_sound {s : State} {r : State × Status} (h : Sound s) (ht : transact s = .ok r) : Sound r.1 := by
  unfold transact at ht
  split at ht
  · cases ht; exact stepKeepsSound s _ h ‹_›
  · cases ht; exact h
  · cases ht

theorem loadProgram_keeps_sound {s : State} (h : Sound s) (bytes : List Byte) : Sound (loadProgram bytes s).1 := by
  unfold loadProgram
  split
  · exact h
  · exact sound_storeBytes h _ _

theorem act_keeps_sound {op : HostOp} {s : State} {r : State × Option Status} (h : Sound s) (ha : act op s = .ok r) :
    Sound r.1 := by
  cases op with
  | step =>
    simp only [act] at ha
    split at ha
    · cases ha; exact transact_keeps_sound h ‹_›
    · cases ha
  | reset => cases ha; exact sound_resetWith h.1 _
  | loadProgram bytes => cases ha; exact loadProgram_keeps_sound h bytes
  | setKeys k => cases ha; exact h
  | ackFrame => cases ha; exact h

/-- Settles O24: by induction on the operations; each keeps the invariants (`act_keeps_sound`). -/
theorem sessionKeepsSound : Obligations.SessionKeepsSound := by
  intro ops
  induction ops with
  | nil => intro s t h hs; cases hs; exact h
  | cons op ops ih =>
    intro s t h hs
    simp only [session] at hs
    split at hs
    · exact ih _ t (act_keeps_sound h ‹_›) hs
    · cases hs

/-- Memory that lists nothing reads as its reset content (log 5). -/
theorem byteAt_resetWith (c : Config) (k a : Nat) : byteAt (State.resetWith c k) a = resetByte c a := rfl

theorem getD_replicate_false (n j : Nat) : (List.replicate n false).getD j false = false := by
  rw [List.getD_eq_getElem?_getD, List.getElem?_getD_replicate_default_eq]

/-- Settles O25: the fields of `State.resetWith`; its memory reads as the reset content (`byteAt_resetWith`), the font
and 0 elsewhere. -/
theorem resetValues : Obligations.ResetValues := by
  refine ⟨fun s => ⟨hostReset s, rfl, fun x => ?v, rfl, rfl, fun j => ?stack, rfl, rfl, rfl, fun k => ?font, fun a ha => ?zero,
    List.length_replicate, fun j => getD_replicate_false _ j, rfl, rfl, rfl, rfl, rfl, rfl⟩, fun s hcfg hrnd => ?powerOn,
    rfl, rfl, rfl, rfl, rfl⟩
  case v => exact Vector.getElem_replicate x.isLt
  case stack => exact Vector.getElem_replicate j.isLt
  case font =>
    rw [hostReset, byteAt_resetWith, resetByte, dif_pos (by omega)]
    simp
  case zero => rw [hostReset, byteAt_resetWith, resetByte, dif_neg (by omega)]
  case powerOn => rw [hostReset, hcfg, hrnd]; rfl

/-- Settles O26: an image that fits is one run of bytes at `0x200` within memory (`onlyBytes_storeBytes`,
`byteAt_storeBytes_add`); a longer one fails the check. -/
theorem loadProgramWritesTheImage : Obligations.LoadProgramWritesTheImage := by
  refine fun bytes s => ⟨fun h => ?fits, fun h => if_pos h, rfl, fun h => ?info⟩
  case fits =>
    have run : 0x200 + bytes.length ≤ 4096 := by omega
    exact ⟨storeBytes s 0x200 bytes, if_neg (by omega), onlyBytes_storeBytes run, fun k hk => byteAt_storeBytes_add run hk⟩
  case info => rw [statusInfo, if_pos h, toNat_ofNat_of_lt h]

/-- Settles O27: each operation and each output read off its definition. -/
theorem hostInputsAndOutputs : Obligations.HostInputsAndOutputs :=
  fun _ => ⟨fun _ => rfl, rfl, rfl, fun _ _ => rfl, decide_eq_true_iff⟩

end Sys2Proof.Proofs
end

section
/-! The remaining obligations of single instructions: `CALL` and `RET` (spec 41), `SUBN` and the shifts (spec 43), `RND`
(spec 44), `CLS` (spec 45), the bulk round trip (spec 46) and the key wait (spec 47). -/

namespace Sys2Proof.Proofs
open Sys2Proof Sys2Proof.Machine

/-! ### The call stack -/

theorem execCall_pushes {s : State} (nnn : Addr) (h : s.sp.val < 16) :
    exec (.call nnn) s = .next (jumpTo (pushReturn s h) (addrWord nnn)) := dif_pos h

theorem execRet_pops {s : State} (h : 0 < s.sp.val) : exec .ret s = .next (popReturn s h) := dif_pos h

/-- The stack after a push: the old `pc` at the old `sp`, every other entry as it was. -/
theorem pushReturn_stack_getElem (s : State) (h : s.sp.val < 16) (j : Fin 16) :
    (pushReturn s h).stack[j] = if j.val = s.sp.val then s.pc else s.stack[j] := by
  simp only [pushReturn_stack, Fin.getElem_fin, Vector.getElem_set, eq_comm]

/-- Settles O29: below 16 entries `CALL` pushes and jumps (`execCall_pushes`, `pushReturn_stack_getElem`), at 16 it fails
its guard. -/
theorem callPushesAndJumps : Obligations.CallPushesAndJumps := by
  refine fun nnn s => ⟨decode_wordNNN_call nnn, fun h => ?room, fun h => dif_neg (by omega)⟩
  case room =>
    exact ⟨_, execCall_pushes nnn h, toNat_addrWord nnn, rfl, pushReturn_stack_getElem s h, rfl, byteAt_congr rfl rfl⟩

/-- Settles O30: with an entry on the stack `RET` pops it (`execRet_pops`), on an empty stack it fails its guard. -/
theorem retPopsPc : Obligations.RetPopsPc := by
  refine fun s => ⟨rfl, fun h => ?entry, fun h => dif_neg (by omega)⟩
  case entry =>
    refine ⟨_, execRet_pops h, Nat.sub_add_cancel h, fun j hj => ?_, rfl, byteAt_congr rfl rfl⟩
    have slot : s.sp.val - 1 = j.val := by omega
    simp only [popReturn_pc, slot, Fin.getElem_fin]

/-- Settles O31: `RET` reads the slot that `CALL` has written (`pushReturn_stack_getElem`), one below its new `sp`. -/
theorem callThenRetReturns : Obligations.CallThenRetReturns := by
  intro nnn s h
  refine ⟨_, execCall_pushes nnn h, fun q => ⟨_, execRet_pops (Nat.succ_pos _), ?_, rfl, fun j hj => ?_⟩⟩
  · exact (pushReturn_stack_getElem s h ⟨s.sp.val, h⟩).trans (if_pos rfl)
  · exact (pushReturn_stack_getElem s h j).trans (if_neg hj)

/-! ### `SUBN`, the shifts, `RND` -/

/-- Settles O39: `SUBN` is `writeResultFlag` (`completes_of_writeResultFlag`) of the byte difference (`toNat_byte_sub`)
with `V[y]` as minuend, and of its not-borrow, both from the old operands. -/
theorem subnSetsNotBorrow : Obligations.SubnSetsNotBorrow :=
  fun x y s => ⟨decode_wordXYN_subnVxVy x y,
    completes_of_writeResultFlag (fun b => b.toNat = (s.v[y].toNat + 256 - s.v[x].toNat) % 256)
      (· = if s.v[x].toNat ≤ s.v[y].toNat then 1 else 0) rfl (toNat_byte_sub _ _) (flagByte_decide _)⟩

/-- The shifts' operand, given by the statements of 43 R148 and R149 as one equation for each setting of the quirk. -/
theorem shiftOperand_eq {s : State} {x y : RegIdx} {a : Byte} (off : s.cfg.quirkShiftVy = false → a = s.v[x])
    (on : s.cfg.quirkShiftVy = true → a = s.v[y]) : shiftOperand s x y = a := by
  unfold shiftOperand
  split
  · exact (on ‹_›).symm
  · exact (off (Bool.eq_false_iff.2 ‹_›)).symm

theorem toNat_flagByte_lowBit (a : Byte) : (flagByte (lowBitFlag a)).toNat = a.toNat % 2 := by
  rw [lowBitFlag, BitVec.getLsbD, Nat.testBit_zero, flagByte_decide]
  split <;> simp <;> omega

theorem toNat_flagByte_highBit (a : Byte) : (flagByte (highBitFlag a)).toNat = a.toNat / 128 := by
  have lt := a.isLt
  rw [highBitFlag, BitVec.getLsbD, Nat.testBit_eq_decide_div_mod_eq, flagByte_decide]
  split <;> simp <;> omega

theorem toNat_shiftLeft_one (a : Byte) : (a <<< 1).toNat = a.toNat * 2 % 256 := by
  rw [BitVec.toNat_shiftLeft, Nat.shiftLeft_eq]

/-- Settles O40: `SHR` is `writeResultFlag` (`completes_of_writeResultFlag`) of half the operand and of its bit 0, the
operand by the quirk's setting (`shiftOperand_eq`). -/
theorem shrShiftsRight : Obligations.ShrShiftsRight := by
  intro x y s a off on
  obtain rfl := shiftOperand_eq off on
  exact ⟨decode_wordXYN_shrVxVy x y,
    completes_of_writeResultFlag (fun b => b.toNat = (shiftOperand s x y).toNat / 2)
      (fun b => b.toNat = (shiftOperand s x y).toNat % 2) rfl (BitVec.toNat_ushiftRight _ _) (toNat_flagByte_lowBit _)⟩

/-- Settles O41: `SHL` is `writeResultFlag` (`completes_of_writeResultFlag`) of twice the operand modulo 256 and of its
bit 7, the operand by the quirk's setting (`shiftOperand_eq`). -/
theorem shlShiftsLeft : Obligations.ShlShiftsLeft := by
  intro x y s a off on
  obtain rfl := shiftOperand_eq off on
  exact ⟨decode_wordXYN_shlVxVy x y,
    completes_of_writeResultFlag (fun b => b.toNat = (shiftOperand s x y).toNat * 2 % 256)
      (fun b => b.toNat = (shiftOperand s x y).toNat / 128) rfl (toNat_shiftLeft_one _) (toNat_flagByte_highBit _)⟩

/-- What a program may rely on of a masked random byte (44 R154). -/
theorem and_mask_and_not (b kk : Byte) : b &&& kk &&& ~~~kk = 0 := by
  rw [BitVec.and_assoc, BitVec.and_not_self]
  exact BitVec.and_zero

/-- Settles O44: `RND` is `setV` of the masked byte in the state whose index has moved on. -/
theorem rndMasksTheRandomByte : Obligations.RndMasksTheRandomByte := by
  intro x kk s
  have read (j : RegIdx) := readV_setV (useByte s) x j (arrivingByte s &&& kk)
  have result : readV (setV (useByte s) x (arrivingByte s &&& kk)) x = Config.randomByte s.rndIndex &&& kk :=
    (read x).trans (if_pos rfl)
  refine ⟨decode_wordXKK_rndVxByte x kk, _, rfl, result, ?_, fun j hj => (read j).trans (if_neg hj), rfl,
    byteAt_congr rfl rfl⟩
  change readV (setV (useByte s) x (arrivingByte s &&& kk)) x &&& ~~~kk = 0
  rw [result, and_mask_and_not]

/-! ### `CLS` and the bulk round trip -/

/-- Settles O49: the cleared grid is `FB_W * FB_H` cells of 0 (`getD_replicate_false`). -/
theorem clsClearsTheGrid : Obligations.ClsClearsTheGrid :=
  fun _ => ⟨rfl, _, rfl, rfl, List.length_replicate, getD_replicate_false _, byteAt_congr rfl rfl⟩

theorem execLdVxMem_inside {s : State} {x : RegIdx} {base : Nat} (hi : s.i.toNat = base)
    (h : base + (x.val + 1) ≤ 4096) : exec (.ldVxMem x) s = .next (loadRegs s base x) := by
  subst hi
  exact withRun_inside (.inr h)

/-- Settles O53: the store puts `V[j]` at `I + j` (`byteAt_storeBytes_add`, `getElem_regsUpTo`) and leaves `I`; the load
reads the same addresses back and leaves the registers above (`readV_loadRegs`). -/
theorem bulkRoundTrip : Obligations.BulkRoundTrip := by
  intro x s h
  have inside : s.i.toNat + (x.val + 1) ≤ 4096 := by omega
  have len := length_regsUpTo s x
  have run : s.i.toNat + (regsUpTo s x).length ≤ 4096 := len.symm ▸ inside
  refine ⟨storeBytes s s.i.toNat (regsUpTo s x), withRun_inside (.inr inside), fun r => ?_⟩
  have index : (storeBytes s s.i.toNat (regsUpTo s x)).i = s.i := storeBytes_i _ _ _
  have load (j : RegIdx) := readV_loadRegs { storeBytes s s.i.toNat (regsUpTo s x) with v := r } s.i.toNat x j
  refine ⟨loadRegs { storeBytes s s.i.toNat (regsUpTo s x) with v := r } s.i.toNat x, ?_, index, fun j hj => ?_,
    fun j hj => (load j).trans (if_neg (Nat.not_le.2 hj))⟩
  · exact execLdVxMem_inside (congrArg BitVec.toNat index) inside
  · have stored : byteAt (storeBytes s s.i.toNat (regsUpTo s x)) (s.i.toNat + j.val) = s.v[j] := by
      rw [byteAt_storeBytes_add run (len ▸ Nat.lt_succ_of_le hj), getElem_regsUpTo]
      rfl
    exact (load j).trans ((if_pos hj).trans stored)

/-! ### The key wait -/

theorem newlyPressed_bit (s : State) (j : RegIdx) :
    (newlyPressed s).getLsbD j.val = (s.keys.getLsbD j.val && !s.kprev.getLsbD j.val) := by
  simp [newlyPressed]

/-- No key is newly pressed when each key that is down was down at the previous look. -/
theorem newlyPressed_eq_zero {s : State}
    (h : ∀ j : Fin 16, s.keys.getLsbD j.val = true → s.kprev.getLsbD j.val = true) : newlyPressed s = 0 := by
  refine BitVec.eq_of_getLsbD_eq fun j hj => ?_
  have bit := newlyPressed_bit s ⟨j, hj⟩
  simp only [BitVec.ofNat_eq_ofNat, BitVec.getLsbD_zero]
  rw [bit]
  cases down : s.keys.getLsbD j with
  | false => rfl
  | true => rw [Bool.true_and, Bool.not_eq_false']; exact h ⟨j, hj⟩ down

/-- The least set bit, found. -/
theorem leastKey_eq_some {m : BitVec 16} {j : RegIdx} (set : m.getLsbD j.val = true)
    (least : ∀ k : RegIdx, k < j → m.getLsbD k.val = false) : leastKey m = some j := by
  cases found : leastKey m with
  | none => simp [leastKey_none.1 found] at set
  | some k =>
    obtain ⟨hk, before⟩ := leastKey_some found
    rcases lt_trichotomy k j with lt | rfl | gt
    · rw [least k lt] at hk; cases hk
    · rfl
    · rw [before j gt] at set; cases set

theorem execLdVxK_await {s : State} (x : RegIdx)
    (h : s.waiting = false ∨ ∀ j : Fin 16, s.keys.getLsbD j.val = true → s.kprev.getLsbD j.val = true) :
    exec (.ldVxK x) s = .next (awaitKey s) := by
  rw [exec, execLdVxK]
  rcases h with idle | held
  · rw [if_neg (Bool.eq_false_iff.1 idle)]
  · rw [newlyPressed_eq_zero held, leastKey_none.2 rfl, ite_self]

/-- `j` is the least key that is down and was not at the previous look. -/
def LeastNewKey (s : State) (j : RegIdx) : Prop :=
  s.keys.getLsbD j.val = true ∧ s.kprev.getLsbD j.val = false ∧
    ∀ k : RegIdx, k < j → s.keys.getLsbD k.val = true → s.kprev.getLsbD k.val = true

theorem leastKey_newlyPressed {s : State} {j : RegIdx} (h : LeastNewKey s j) : leastKey (newlyPressed s) = some j := by
  obtain ⟨down, wasUp, least⟩ := h
  refine leastKey_eq_some ?_ fun k hk => ?_
  · rw [newlyPressed_bit, down, wasUp]; rfl
  · rw [newlyPressed_bit]
    cases hd : s.keys.getLsbD k.val with
    | false => rfl
    | true => rw [least k hk hd]; rfl

theorem execLdVxK_take {s : State} (x : RegIdx) {j : RegIdx} (hw : s.waiting = true) (h : LeastNewKey s j) :
    exec (.ldVxK x) s = .next (takeKey s x j) := by
  rw [exec, execLdVxK, if_pos hw, leastKey_newlyPressed h]

theorem readV_takeKey (s : State) (x j k : RegIdx) :
    readV (takeKey s x j) k = if k = x then BitVec.ofNat 8 j.val else readV s k := readV_setV _ x k _

theorem toNat_readV_takeKey (s : State) (x j : RegIdx) : (readV (takeKey s x j) x).toNat = j.val := by
  rw [readV_takeKey, if_pos rfl, toNat_ofNat_of_lt (by omega)]

/-- Settles O57: which of the two outcomes the handler has is `execLdVxK_await` and `execLdVxK_take`; `LD Vx, K` sees the
keypad, the snapshot and `waiting` of the step's own start (`enter_ldVxK`), and its step ends in
`finish_awaitKey_enter` or with the tick. -/
theorem keyWait : Obligations.KeyWait := by
  refine fun x s => ⟨decode_wordXKK_ldVxK x, execLdVxK_await x, fun j hw down wasUp least => ?take,
    fun w hf hd h => ?awaitStep, fun w j hf hd hw down wasUp least => ?takeStep⟩
  case take =>
    exact ⟨_, execLdVxK_take x hw ⟨down, wasUp, least⟩, toNat_readV_takeKey s x j,
      fun k hk => (readV_takeKey s x j k).trans (if_neg hk), rfl, byteAt_congr rfl rfl⟩
  case awaitStep =>
    have handled : exec (.ldVxK x) (enter (.instr (.ldVxK x)) s) = .next (awaitKey (enter (.instr (.ldVxK x)) s)) := by
      rw [enter_ldVxK]; exact execLdVxK_await x h
    rw [step_of_exec hf hd handled, finish_awaitKey_enter]
  case takeStep =>
    have handled : exec (.ldVxK x) (enter (.instr (.ldVxK x)) s) = .next (takeKey (enter (.instr (.ldVxK x)) s) x j) := by
      rw [enter_ldVxK]; exact execLdVxK_take x hw ⟨down, wasUp, least⟩
    exact ⟨_, step_of_exec_not_waiting hf hd handled rfl, toNat_readV_takeKey _ x j,
      fun k hk => (readV_takeKey _ x j k).trans (if_neg hk), toNat_countDown s.dt, toNat_countDown s.st, rfl,
      byteAt_congr rfl rfl⟩

end Sys2Proof.Proofs
end

section
/-! The obligations of `DRW` (spec 45). -/

namespace Sys2Proof.Proofs
open Sys2Proof Sys2Proof.Machine

/-! ### Cells of the grid -/

/-- A row-major index is a cell of the grid. -/
theorem rowMajor_lt {w h x y : Nat} (hx : x < w) (hy : y < h) : x + y * w < w * h :=
  calc x + y * w < w + y * w := by omega
    _ = (y + 1) * w := by ring
    _ ≤ h * w := Nat.mul_le_mul_right w hy
    _ = w * h := Nat.mul_comm h w

/-- A row-major index names its column and row. -/
theorem rowMajor_inj {w x x' y y' : Nat} (hx : x < w) (hx' : x' < w) (h : x + y * w = x' + y' * w) :
    x = x' ∧ y = y' := by
  have col : x = x' := by
    have mods := congrArg (· % w) h
    simpa [Nat.mod_eq_of_lt, hx, hx'] using mods
  subst col
  exact ⟨rfl, Nat.eq_of_mul_eq_mul_right (by omega) (Nat.add_left_cancel h)⟩

theorem pixelCell_perAxis {c : Config} (h : c.quirkFlatWrap = false) (x0 y0 col row : Nat) :
    pixelCell c x0 y0 col row = (y0 + row) % c.fbH * c.fbW + (x0 + col) % c.fbW := by
  rw [pixelCell, h]; rfl

theorem pixelCell_flat {c : Config} (h : c.quirkFlatWrap = true) (x0 y0 col row : Nat) :
    pixelCell c x0 y0 col row = ((x0 + col) + (y0 + row) * c.fbW) % (c.fbW * c.fbH) := by
  rw [pixelCell, h]; rfl

/-- Settles O45: the two forms of `pixelCell` and its bound (`pixelCell_lt`); on the screen no `mod` does anything
(`rowMajor_lt`). -/
theorem pixelAddress : Obligations.PixelAddress := by
  refine fun c x0 y0 col row wf => ⟨fun h => pixelCell_perAxis h x0 y0 col row, fun h => pixelCell_flat h x0 y0 col row,
    pixelCell_lt c wf x0 y0 col row, fun hx hy => ?onScreen⟩
  case onScreen =>
    rw [pixelCell_flat rfl, pixelCell_perAxis rfl]
    simp only [Nat.mod_eq_of_lt hx, Nat.mod_eq_of_lt hy, Nat.mod_eq_of_lt (rowMajor_lt hx hy)]
    exact Nat.add_comm _ _

/-- Two offsets below the modulus that wrap to the same value are equal. -/
theorem eq_of_add_mod_eq {n a b b' : Nat} (hb : b < n) (hb' : b' < n) (h : (a + b) % n = (a + b') % n) : b = b' :=
  (Nat.ModEq.add_left_cancel' a h).eq_of_lt_of_lt hb hb'

/-- Bits of a sprite no larger than the grid land on different cells, under either wrap (45 R162 d). -/
theorem pixelCell_inj {c : Config} {x0 y0 col col' row row' : Nat} (hcol : col < c.fbW) (hcol' : col' < c.fbW)
    (hrow : row < c.fbH) (hrow' : row' < c.fbH) (h : pixelCell c x0 y0 col row = pixelCell c x0 y0 col' row') :
    col = col' ∧ row = row' := by
  cases wrap : c.quirkFlatWrap with
  | false =>
    rw [pixelCell_perAxis wrap, pixelCell_perAxis wrap, Nat.add_comm, Nat.add_comm (_ * _)] at h
    obtain ⟨cols, rows⟩ := rowMajor_inj (Nat.mod_lt _ (by omega)) (Nat.mod_lt _ (by omega)) h
    exact ⟨eq_of_add_mod_eq hcol hcol' cols, eq_of_add_mod_eq hrow hrow' rows⟩
  | true =>
    have offset (k r : Nat) : x0 + k + (y0 + r) * c.fbW = x0 + y0 * c.fbW + (k + r * c.fbW) := by ring
    rw [pixelCell_flat wrap, pixelCell_flat wrap, offset, offset] at h
    exact rowMajor_inj hcol hcol' (eq_of_add_mod_eq (rowMajor_lt hcol hrow) (rowMajor_lt hcol' hrow') h)

theorem mem_plottedCells {s : State} {x0 y0 n j : Nat} (h : j ∈ plottedCells s x0 y0 n) :
    ∃ col row, j = pixelCell s.cfg x0 y0 col row := by
  obtain ⟨row, -, hj⟩ := List.mem_flatMap.1 h
  obtain ⟨col, -, rfl⟩ := List.mem_map.1 hj
  exact ⟨col, row, rfl⟩

/-- Every plotted cell is a cell of the framebuffer. -/
theorem plottedCells_lt {s : State} (hc : ConfigOk s) (hfb : FrameOk s) {x0 y0 n j : Nat}
    (h : j ∈ plottedCells s x0 y0 n) : j < s.fb.length := by
  obtain ⟨col, row, rfl⟩ := mem_plottedCells h
  rw [hfb]
  exact pixelCell_lt s.cfg hc x0 y0 col row

/-- On a grid at least 8 by 15 no two bits of a sprite share a cell (`pixelCell_inj`). -/
theorem plottedCells_nodup {s : State} (hw : 8 ≤ s.cfg.fbW) (hh : 15 ≤ s.cfg.fbH) (x0 y0 : Nat) {n : Nat} (hn : n ≤ 15) :
    (plottedCells s x0 y0 n).Nodup := by
  refine List.nodup_flatMap.2 ⟨fun row hrow => ?_, List.nodup_range.pairwise_of_forall_ne fun r hr r' hr' hne => ?_⟩
  · have rowLt := List.mem_range.1 hrow
    refine List.Nodup.map_on (fun col hcol col' hcol' h => ?_) (List.nodup_range.filter _)
    have colLt := List.mem_range.1 (List.mem_filter.1 hcol).1
    have colLt' := List.mem_range.1 (List.mem_filter.1 hcol').1
    exact (pixelCell_inj (by omega) (by omega) (by omega) (by omega) h).1
  · have rLt := List.mem_range.1 hr
    have rLt' := List.mem_range.1 hr'
    intro j hj hj'
    obtain ⟨col, hcol, rfl⟩ := List.mem_map.1 hj
    obtain ⟨col', hcol', h⟩ := List.mem_map.1 hj'
    have colLt := List.mem_range.1 (List.mem_filter.1 hcol).1
    have colLt' := List.mem_range.1 (List.mem_filter.1 hcol').1
    exact hne (pixelCell_inj (by omega) (by omega) (by omega) (by omega) h).2.symm

/-! ### Collisions -/

/-- A bit finds its cell set when the cell's first value, toggled by the bits before it on that cell, is 1. -/
theorem snd_plotCells {fb : List Bool} {cs : List Nat} (hcs : ∀ c ∈ cs, c < fb.length) :
    (plotCells fb cs).2 = true ↔
      ∃ m, ∃ h : m < cs.length, (fb.getD cs[m] false ^^ decide ((cs.take m).count cs[m] % 2 = 1)) = true := by
  have turn (m : Nat) (h : m < cs.length) := getD_foldl_plotCell (fb, false) (cs.take m) cs[m] (hcs _ (List.getElem_mem h))
  rw [plotCells, snd_foldl_plotCell]
  simp only [Bool.false_eq_true, false_or]
  exact exists_congr fun m => exists_congr fun h => by rw [turn m h]

/-- Where no two bits share a cell, a collision is a bit on a cell that was set before the draw. -/
theorem snd_plotCells_of_nodup {fb : List Bool} {cs : List Nat} (hcs : ∀ c ∈ cs, c < fb.length) (nd : cs.Nodup) :
    (plotCells fb cs).2 = true ↔ ∃ c ∈ cs, fb.getD c false = true := by
  have first (m : Nat) (h : m < cs.length) : (cs.take m).count cs[m] = 0 := by
    refine List.count_eq_zero.2 fun hmem => ?_
    obtain ⟨k, hk, e⟩ := List.mem_take_iff_getElem.1 hmem
    have := (nd.getElem_inj_iff (hi := by omega) (hj := h)).1 e
    omega
  rw [snd_plotCells hcs]
  constructor
  · rintro ⟨m, h, hset⟩
    exact ⟨cs[m], List.getElem_mem h, by simpa [first m h] using hset⟩
  · rintro ⟨c, hc, hset⟩
    obtain ⟨m, h, rfl⟩ := List.getElem_of_mem hc
    exact ⟨m, h, by simpa [first m h] using hset⟩

/-- A cell after a draw that touches no cell twice. -/
theorem getD_plotCells_of_nodup {fb : List Bool} {cs : List Nat} (hcs : ∀ c ∈ cs, c < fb.length) (nd : cs.Nodup)
    {c : Nat} (hc : c ∈ cs) : (plotCells fb cs).1.getD c false = !fb.getD c false := by
  rw [getD_plotCells fb cs c (hcs c hc), List.count_eq_one_of_mem nd hc]
  simp

/-- Plotting the same cells twice restores the framebuffer: each cell's toggles come in pairs. -/
theorem plotCells_plotCells (fb : List Bool) (cs : List Nat) : (plotCells (plotCells fb cs).1 cs).1 = fb := by
  refine List.ext_getElem (by simp) fun j hj hj' => ?_
  have twice := getD_plotCells (plotCells fb cs).1 cs j (by simpa using hj')
  rw [getD_plotCells fb cs j hj', Bool.xor_assoc, Bool.xor_self, Bool.xor_false] at twice
  rwa [← List.getD_eq_getElem _ false hj, ← List.getD_eq_getElem _ false hj']

/-! ### What `DRW` does, through `plottedCells` -/

/-- What `DRW Vx, Vy, n` answers when it completes. -/
def drawn (x y : RegIdx) (n : Nibble) (s : State) : State :=
  drawSprite s (readV s x).toNat (readV s y).toNat (bytesAt s s.i.toNat n.toNat)

theorem execDrw_inside {x y : RegIdx} {n : Nibble} {s : State} (h : n = 0 ∨ s.i.toNat + n.toNat - 1 ≤ 0xFFF) :
    exec (.drw x y n) s = .next (drawn x y n s) := by
  refine withRun_inside ?_
  rcases h with rfl | h
  · exact .inl rfl
  · omega

/-- The cells of the sprite `DRW Vx, Vy, n` draws. -/
def drawnCells (x y : RegIdx) (n : Nibble) (s : State) : List Nat :=
  plottedCells s s.v[x].toNat s.v[y].toNat n.toNat

theorem drawn_fb (x y : RegIdx) (n : Nibble) (s : State) : (drawn x y n s).fb = (plotCells s.fb (drawnCells x y n s)).1 := by
  rw [drawn, drawSprite_fb, spriteCells_bytesAt]
  rfl

theorem drawn_flag (x y : RegIdx) (n : Nibble) (s : State) :
    (drawn x y n s).v[flagReg] = flagByte (plotCells s.fb (drawnCells x y n s)).2 := by
  rw [drawnCells, ← spriteCells_bytesAt]
  exact readV_setVF_flagReg _ _

theorem drawn_flag_eq_one {x y : RegIdx} {n : Nibble} {s : State} :
    (drawn x y n s).v[flagReg] = 1 ↔ (plotCells s.fb (drawnCells x y n s)).2 = true := by
  rw [drawn_flag]
  cases (plotCells s.fb (drawnCells x y n s)).2 <;> decide

theorem onlyDrawing_drawn (x y : RegIdx) (n : Nibble) (s : State) : OnlyDrawing s (drawn x y n s) :=
  ⟨rfl, fun j hj => (readV_setV _ flagReg j _).trans (if_neg hj), byteAt_congr rfl rfl⟩

/-- A second `DRW` at the same origin plots the same cells: it reads the same parameters, `I` and memory. -/
theorem drawnCells_drawn {x y : RegIdx} {n : Nibble} {s : State} (hx : (drawn x y n s).v[x] = s.v[x])
    (hy : (drawn x y n s).v[y] = s.v[y]) : drawnCells x y n (drawn x y n s) = drawnCells x y n s := by
  rw [drawnCells, hx, hy]
  rfl

/-- Settles O46: the run is inside memory (`execDrw_inside`); each cell is toggled once for each bit on it
(`getD_plotCells`), and the flag is the collision (`drawn_flag`, `snd_plotCells`). -/
theorem drwTogglesAndDetectsCollision : Obligations.DrwTogglesAndDetectsCollision := by
  rintro x y n s cs hc hfb hrun rfl
  refine ⟨decode_wordXYN_drw x y n, drawn x y n s, execDrw_inside hrun, onlyDrawing_drawn x y n s, rfl, ?_, fun j hj => ?_,
    ?_, drawn_flag_eq_one.trans (snd_plotCells fun c => plottedCells_lt hc hfb)⟩
  · rw [drawn_fb, length_plotCells]
  · rw [drawn_fb]
    exact getD_plotCells s.fb _ j hj
  · rw [drawn_flag]
    exact flagByte_eq _

/-- The parameters of a grid at least 8 by 15 are within their bounds. -/
theorem configOk_of_wide {s : State} (hw : 8 ≤ s.cfg.fbW) (hh : 15 ≤ s.cfg.fbH) : ConfigOk s :=
  Bool.and_eq_true_iff.2 ⟨decide_eq_true (by omega), decide_eq_true (by omega)⟩

theorem drawnCells_nodup {x y : RegIdx} {n : Nibble} {s : State} (hw : 8 ≤ s.cfg.fbW) (hh : 15 ≤ s.cfg.fbH) :
    (drawnCells x y n s).Nodup := plottedCells_nodup hw hh _ _ (Nat.le_of_lt_succ n.isLt)

/-- Settles O47: no two bits share a cell (`drawnCells_nodup`), so a collision is a bit on a set pixel
(`snd_plotCells_of_nodup`). -/
theorem drwCollisionOnWideGrid : Obligations.DrwCollisionOnWideGrid := by
  rintro x y n s t cs hfb hw hh rfl h
  cases exec_next h
  have cells : ∀ c ∈ drawnCells x y n s, c < s.fb.length := fun c => plottedCells_lt (configOk_of_wide hw hh) hfb
  have nd : (drawnCells x y n s).Nodup := drawnCells_nodup hw hh
  exact ⟨nd, drawn_flag_eq_one.trans (snd_plotCells_of_nodup cells nd)⟩

/-- Settles O48: the second draw plots the same cells (`drawnCells_drawn`), which restores the picture
(`plotCells_plotCells`); on a wide grid it collides on the cells the first has set, those that were clear
(`getD_plotCells_of_nodup`). -/
theorem drwTwiceRestores : Obligations.DrwTwiceRestores := by
  intro x y n s t u hc hfb ht hx hy hu
  cases exec_next ht
  cases exec_next hu
  have same := drawnCells_drawn hx hy
  refine ⟨?picture, fun hw hh => ?flag⟩
  case picture =>
    change (drawn x y n (drawn x y n s)).fb = s.fb
    rw [drawn_fb, same, drawn_fb, plotCells_plotCells]
  case flag =>
    have cells : ∀ c ∈ drawnCells x y n s, c < s.fb.length := fun c => plottedCells_lt hc hfb
    have nd : (drawnCells x y n s).Nodup := drawnCells_nodup hw hh
    refine (drawn_flag_eq_one (s := drawn x y n s)).trans ?_
    rw [same, drawn_fb, snd_plotCells_of_nodup (by simpa using cells) nd]
    refine exists_congr fun c => and_congr_right fun hcell => ?_
    rw [getD_plotCells_of_nodup cells nd hcell, Bool.not_eq_true']

end Sys2Proof.Proofs
end
